-- ==== Sys2Proof/Word.lean ====
section
/-! DEFINITION. The word types of the block (00_scope R9, R10) and their plainest arithmetic. -/

namespace Sys2Proof

/-- `u8` of R9. -/
abbrev Byte := BitVec 8

/-- `u32` of R9: a register, a command word, an address. -/
abbrev Word := BitVec 32

/-- A binary32 sample as its 32-bit pattern (43_sequencer R172). -/
abbrev F32 := BitVec 32

/-- A 16-bit two's-complement sample (43_sequencer R172). -/
abbrev I16 := BitVec 16

/-- `ceil_div(a, b)` of R9, for `b > 0`. -/
def ceilDiv (a b : Nat) : Nat := (a + b - 1) / b

/-- The binary32 pattern denotes a number in [-1, 1]: its magnitude bits are at most those of 1.0,
which shuts out every infinity and NaN (44_external_ports R206). -/
def inUnit (x : F32) : Bool := decide (x.toNat % 2 ^ 31 ≤ 0x3F800000)

end Sys2Proof
end

