-- ==== Sys2Proof/Config.lean ====
section
/-! DEFINITION. The parameters of the model (00_scope R8) with the constraints the spec gives them, and the free values.

`Params` is the table of R8. Each constraint the spec states on a parameter is a proof field. The default values
only show that parameters meeting all the constraints exist (and let a test fill in the ones it needs): the machine
runs under `Config.params`, which is opaque, so nothing about it can be proved beyond the constraints (log 5). -/

namespace Sys2Proof

/-- A positive rational (R8: BITRATE, PILOT_FREQ_HZ). -/
structure PosRat where
  num : Nat := 1
  den : Nat := 1
  num_pos : 0 < num := by decide
  den_pos : 0 < den := by decide
  deriving Inhabited

/-- `ceil(n · 8 · samplesPerBit)` with `samplesPerBit = R / bitrate` (44_external_ports R205, R206), in naturals. -/
def PosRat.frameSamples (bitrate : PosRat) (R : Word) (n : Nat) : Nat :=
  ceilDiv (n * 8 * R.toNat * bitrate.den) bitrate.num

/-- `R ≥ bitrate` (44_external_ports R205). -/
def PosRat.leRate (bitrate : PosRat) (R : Word) : Prop := bitrate.num ≤ R.toNat * bitrate.den

/-- The number of samples of a stream (43_sequencer R187), for a payload of `L` bytes at rate `R`: 40-byte Control
frames, 272-byte Data frames, `ns(d) = floor(d · R / 1000)` samples for a duration of `d` ms. -/
def streamLength (leadMs pilotMs pilotGapMs ctrlGapMs settleMs dataGapMs : Nat) (bitrate : Bool → PosRat)
    (lbr : Bool) (R : Word) (L : Nat) : Nat :=
  2 * (leadMs * R.toNat / 1000)
    + (if lbr then pilotMs * R.toNat / 1000 + pilotGapMs * R.toNat / 1000 else 0)
    + 2 * (bitrate lbr).frameSamples R 40
    + ctrlGapMs * R.toNat / 1000 + settleMs * R.toNat / 1000
    + ceilDiv L 256 * ((bitrate lbr).frameSamples R 272 + dataGapMs * R.toNat / 1000)

/-! ### Numbers as bytes, for the default header only -/

/-- The number whose bytes are `b`, least significant first. -/
def natOfBytes : List Byte → Nat
  | [] => 0
  | b :: bs => b.toNat + 256 * natOfBytes bs

/-- The `k` low bytes of `v`, least significant first. -/
def bytesOfNat : Nat → Nat → List Byte
  | 0, _ => []
  | k + 1, v => BitVec.ofNat 8 v :: bytesOfNat k (v / 256)

@[simp] theorem bytesOfNat_length (k v : Nat) : (bytesOfNat k v).length = k := by
  induction k generalizing v with
  | zero => rfl
  | succ k ih => simp [bytesOfNat, ih]

theorem natOfBytes_bytesOfNat {k v : Nat} (h : v < 256 ^ k) : natOfBytes (bytesOfNat k v) = v := by
  induction k generalizing v with
  | zero =>
    simp only [bytesOfNat, natOfBytes]
    omega
  | succ k ih =>
    have hd : v / 256 < 256 ^ k := by
      rw [Nat.div_lt_iff_lt_mul (by decide), ← Nat.pow_succ]
      exact h
    simp only [bytesOfNat, natOfBytes, ih hd, BitVec.toNat_ofNat]
    omega

/-- Durations of at most 2^64 ms, bit rates with denominators of at most 2^64 and payloads that fit PMEM give streams
shorter than 2^200 samples. -/
theorem streamLength_lt {d₁ d₂ d₃ d₄ d₅ d₆ : Nat} {bitrate : Bool → PosRat} (lbr : Bool) (R : Word) {L : Nat}
    (h₁ : d₁ ≤ 2 ^ 64) (h₂ : d₂ ≤ 2 ^ 64) (h₃ : d₃ ≤ 2 ^ 64) (h₄ : d₄ ≤ 2 ^ 64) (h₅ : d₅ ≤ 2 ^ 64)
    (h₆ : d₆ ≤ 2 ^ 64) (hb : (bitrate lbr).den ≤ 2 ^ 64) (hL : L ≤ 2 ^ 24) :
    streamLength d₁ d₂ d₃ d₄ d₅ d₆ bitrate lbr R L < 2 ^ 200 := by
  have hR : R.toNat ≤ 2 ^ 32 := R.isLt.le
  have hd : ∀ d, d ≤ 2 ^ 64 → d * R.toNat / 1000 ≤ 2 ^ 96 := fun d h =>
    (Nat.div_le_self _ _).trans (by simpa using Nat.mul_le_mul h hR)
  have hf : ∀ n, n ≤ 272 → (bitrate lbr).frameSamples R n ≤ 2 ^ 108 := by
    intro n hn
    have hp := (bitrate lbr).num_pos
    have h : n * 8 * R.toNat * (bitrate lbr).den ≤ 272 * 8 * 2 ^ 32 * 2 ^ 64 :=
      Nat.mul_le_mul (Nat.mul_le_mul (Nat.mul_le_mul_right _ hn) hR) hb
    have hc : (bitrate lbr).frameSamples R n ≤ n * 8 * R.toNat * (bitrate lbr).den + 1 := by
      unfold PosRat.frameSamples ceilDiv
      refine Nat.div_le_of_le_mul ?_
      rw [Nat.mul_add, Nat.mul_one]
      have := Nat.le_mul_of_pos_left (n * 8 * R.toNat * (bitrate lbr).den) hp
      omega
    omega
  have hn : ceilDiv L 256 ≤ 2 ^ 16 := by
    unfold ceilDiv
    omega
  have hm := Nat.mul_le_mul hn (Nat.add_le_add (hf 272 le_rfl) (hd d₆ h₆))
  have := hd d₁ h₁
  have := hd d₂ h₂
  have := hd d₃ h₃
  have := hd d₄ h₄
  have := hd d₅ h₅
  have := hf 40 (by decide)
  unfold streamLength
  split <;> omega

/-- The header port of the PCM container (44_external_ports R210): 44 bytes, and how they declare the chunk size and
the byte rate. Where in the header and in what form they are declared is open, so the two readers are part of the port.
The byte rate is declared for every N and R. The chunk size is declared for every N below 256^39, a bound that is the
model's choice (log 7), and by `Params.pcmHeader_stream` for every N an ENCCONT produces. The bound leaves headers over
for every choice of the durations and the bit rates, which so stay open (`PcmHeaderPort.exists_for_streams`). -/
structure PcmHeaderPort where
  bytes : Nat → Word → Vector Byte 44 := fun N R =>
    ⟨(bytesOfNat 40 (N % 256 ^ 40) ++ bytesOfNat 4 R.toNat).toArray, by simp⟩
  chunkSize : Vector Byte 44 → Nat := fun h => 36 + 2 * natOfBytes (h.toList.take 40)
  byteRate : Vector Byte 44 → Nat := fun h => 2 * natOfBytes (h.toList.drop 40)
  /-- "declared chunk size 36+2N" (R210). -/
  chunkSize_declared : ∀ N R, N < 256 ^ 39 → chunkSize (bytes N R) = 36 + 2 * N := by
    intro N R hN
    have h : N < 256 ^ 40 := lt_trans hN (by decide)
    have ht : (bytesOfNat 40 (N % 256 ^ 40) ++ bytesOfNat 4 R.toNat).take 40 = bytesOfNat 40 N := by
      rw [List.take_left' (bytesOfNat_length _ _), Nat.mod_eq_of_lt h]
    simp only [Vector.toList, ht]
    rw [natOfBytes_bytesOfNat h]
  /-- "declared byte rate R·2" (R210). -/
  byteRate_declared : ∀ N R, byteRate (bytes N R) = 2 * R.toNat := by
    intro N R
    have ht : (bytesOfNat 40 (N % 256 ^ 40) ++ bytesOfNat 4 R.toNat).drop 40 = bytesOfNat 4 R.toNat :=
      List.drop_left' (bytesOfNat_length _ _)
    simp only [Vector.toList, ht]
    rw [natOfBytes_bytesOfNat (v := R.toNat) (lt_of_lt_of_eq R.isLt (by decide))]
  deriving Inhabited

/-- The parameters of the model, R8. -/
structure Params where
  /-- PREAMBLE, "fixed 7-byte preamble" (30_encoding R70). -/
  preamble : Vector Byte 7 := default
  /-- STOP, "fixed 1-byte stop marker" (30_encoding R70). -/
  stop : Byte := default
  /-- hash32 (44_external_ports R200): total and deterministic, nothing else. -/
  hash32 : List Byte → Word → Word := default
  /-- digest128 (44_external_ports R203): 16 bytes, in the order the port returns them. -/
  digest128 : List Byte → Vector Byte 16 := default
  /-- PMEM_SIZE (20_memory R50). -/
  pmemSize : Nat := 256
  pmemSize_min : 256 ≤ pmemSize := by decide
  pmemSize_max : pmemSize ≤ 2 ^ 24 := by decide
  /-- LEAD_MS; the trail silence has the same duration (43_sequencer R181). -/
  leadMs : Nat := 0
  pilotMs : Nat := 0
  pilotGapMs : Nat := 0
  ctrlGapMs : Nat := 0
  settleMs : Nat := 1
  dataGapMs : Nat := 0
  /-- "a longer settle silence" (43_sequencer R181). -/
  settle_longer : ctrlGapMs < settleMs := by decide
  /-- BITRATE(lbr), bits per second (44_external_ports R205). -/
  bitrate : Bool → PosRat := fun _ => { num := 1, den := 1 }
  /-- SAMPLE_RATE_OK (40_configure R102). -/
  sampleRateOk : Word → Bool := fun R => decide (1 ≤ R.toNat)
  sampleRateOk_zero : sampleRateOk 0 = false := by decide
  /-- "SAMPLE_RATE_OK(R) implies R ≥ BITRATE(false) and R ≥ BITRATE(true)" (44_external_ports R205). -/
  sampleRateOk_bitrate : ∀ R, sampleRateOk R = true → ∀ lbr, (bitrate lbr).leRate R := by
    intro R h lbr
    simpa [PosRat.leRate] using h
  /-- modulate(lbr, R, f) (44_external_ports R206): only its length and range may be assumed. -/
  modulate : Bool → Word → List Byte → List F32 :=
    fun lbr R f => List.replicate ((bitrate lbr).frameSamples R f.length) 0
  modulate_length : ∀ lbr R f, (modulate lbr R f).length = (bitrate lbr).frameSamples R f.length := by simp
  modulate_unit : ∀ lbr R f, ∀ x ∈ modulate lbr R f, inUnit x = true := by
    intro lbr R f x h
    rw [List.eq_of_mem_replicate h]
    decide
  /-- PILOT_FREQ_HZ (43_sequencer R177). -/
  pilotFreqHz : PosRat := default
  /-- The binary32 rounding of cos(2π · f · k / R), given f, k and R; `Params.pilotSample` applies it at
  PILOT_FREQ_HZ (43_sequencer R177). -/
  roundedCosine : PosRat → Nat → Word → F32 := fun _ _ _ => 0
  /-- "normalized amplitude", peak magnitude 1.0 (43_sequencer R177, R172; log 6). -/
  roundedCosine_unit : ∀ f k R, inUnit (roundedCosine f k R) = true := by intros; decide
  /-- quantize (43_sequencer R180). -/
  quantize : F32 → I16 := fun _ => 0
  quantize_zero : quantize 0 = 0 := by decide
  /-- pcmHeader (44_external_ports R210). -/
  pcmHeader : PcmHeaderPort := default
  /-- The header of every container a successful ENCCONT writes declares its chunk size (44_external_ports R214). This
  bounds no duration and no bit rate (`PcmHeaderPort.exists_for_streams`; log 7). -/
  pcmHeader_stream : ∀ lbr R L, L ≤ pmemSize →
      pcmHeader.chunkSize (pcmHeader.bytes
          (streamLength leadMs pilotMs pilotGapMs ctrlGapMs settleMs dataGapMs bitrate lbr R L) R) =
        36 + 2 * streamLength leadMs pilotMs pilotGapMs ctrlGapMs settleMs dataGapMs bitrate lbr R L := by
    intro lbr R L hL
    refine PcmHeaderPort.chunkSize_declared _ _ _ (lt_of_lt_of_le (streamLength_lt lbr R (by decide) (by decide)
      (by decide) (by decide) (by decide) (by decide) (by cases lbr <;> decide) (hL.trans (by decide))) ?_)
    decide
  /-- compressEncode (44_external_ports R211). -/
  compressEncode : List F32 → List Byte := default
  /-- AFE_BASE, the platform's (20_memory R57; log 11). -/
  afeBase : Nat := 0
  /-- MIME_PCM and MIME_COMPRESSED (44_external_ports R213). -/
  mimePcm : String := default
  mimeCompressed : String := default
  deriving Inhabited

/-- The pilot sample k at rate R (43_sequencer R177). -/
def Params.pilotSample (c : Params) (k : Nat) (R : Word) : F32 := c.roundedCosine c.pilotFreqHz k R

/-- The number of samples of the stream of a payload of `L` bytes (43_sequencer R187). -/
def Params.streamSamples (c : Params) (lbr : Bool) (R : Word) (L : Nat) : Nat :=
  streamLength c.leadMs c.pilotMs c.pilotGapMs c.ctrlGapMs c.settleMs c.dataGapMs c.bitrate lbr R L

namespace Config

/-- The parameters of this block: any that meet R8's constraints. -/
opaque params : Params

/-- FREE VALUE (20_memory R51, R52; log 3). What a byte that nothing has written since reset reads as: `freeByte n a`
is the byte at relative address `a` in the memory read numbered `n`. -/
opaque freeByte : Nat → Nat → Byte

/-- FREE VALUE (log 4). What the 64-bit registers OUT_LEN and COUT_LEN hold for a stream of `n ≥ 2^64` elements. -/
opaque freeCount64 : Nat → BitVec 64

end Config

end Sys2Proof
end

