-- ==== Sys2Proof/Syntax.lean ====
section
/-! DEFINITION. The commands of the block (30_encoding R83), the names of its registers (10_state R23), the accesses a
host can make (20_memory R56) and the host program lines of 30_encoding R86. -/

namespace Sys2Proof

/-- The five commands, one per row of spec/opcode_table.json. A command word has no operand fields (R82): every
operand is in a register. -/
inductive Instr where
  | configure   -- CONFIGURE, 0x01
  | mkctl       -- MKCTL, 0x02
  | mkdata      -- MKDATA, 0x03
  | encode      -- ENCODE, 0x04
  | enccont     -- ENCCONT, 0x05
  deriving DecidableEq, Repr

/-- The registers of R23, by name. -/
inductive Reg where
  | cmd | status
  | cfgVersion | cfgLbr | cfgSampleRate | cfgRepeat | cfgSampleFmt | cfgContainer
  | plen | argOff | argLen | argIdx
  | flen | outLenLo | outLenHi | coutLenLo | coutLenHi | mimeSel
  deriving DecidableEq, Repr

/-- The widths of a host access: 1, 2 or 4 bytes (20_memory R56; log 10). -/
inductive Width where
  | byte | half | word
  deriving DecidableEq, Repr

/-- The width in bytes. -/
def Width.bytes : Width → Nat
  | .byte => 1
  | .half => 2
  | .word => 4

/-- One host access. Addresses are relative to AFE_BASE (20_memory R57; log 11). A write narrower than 32 bits
carries its value in the low bits. -/
inductive HostAccess where
  | read  (addr : Word) (width : Width)
  | write (addr : Word) (width : Width) (value : Word)
  deriving DecidableEq, Repr

/-- One line of a host program (30_encoding R86). -/
inductive HostOp where
  | wr (reg : Reg) (imm : Word)          -- WR <REG>, <imm32>
  | rd (reg : Reg)                       -- RD <REG>
  | wb (off : Nat) (imm : Byte)          -- WB <off>, <imm8>
  | rb (off : Nat)                       -- RB <off>
  | rf (off : Nat)                       -- RF <off>
  | cmd (i : Instr)                      -- CMD <MNEMONIC>
  | config (ver lbr rate rep sfmt cfmt : Word)
  | payload (bytes : List Byte)
  | dataArgs (off len idx : Word)
  deriving DecidableEq, Repr

end Sys2Proof
end

