-- ==== Sys2Proof/WellFormed.lean ====
section
/-! DEFINITION. What makes a command, a command word and a host program line well formed. -/

namespace Sys2Proof

/-- A command has no operand fields (30_encoding R82), so each of the five is well formed. -/
def Instr.wf : Instr → Bool
  | .configure | .mkctl | .mkdata | .encode | .enccont => true

/-- A command word is well formed when RSV is zero and OP is assigned (30_encoding R82, R84). -/
def wordWf (w : Word) : Bool :=
  w.extractLsb' 8 24 == 0 && decide (1 ≤ (w.extractLsb' 0 8).toNat) && decide ((w.extractLsb' 0 8).toNat ≤ 5)

/-- A host program line names bytes that exist: PMEM offsets below PMEM_SIZE, FMEM offsets below 272, a payload that
fits PMEM (30_encoding R86, 20_memory R50, R52). -/
def HostOp.wf : HostOp → Bool
  | .wb off _ => decide (off < Config.params.pmemSize)
  | .rb off => decide (off < Config.params.pmemSize)
  | .rf off => decide (off < 272)
  | .payload bytes => decide (bytes.length ≤ Config.params.pmemSize)
  | .cmd i => i.wf
  | .wr _ _ | .rd _ | .config _ _ _ _ _ _ | .dataArgs _ _ _ => true

end Sys2Proof
end

