-- ==== Sys2Proof/Decode.lean ====
section
/-! DEFINITION. Decoding a command word, total on every 32-bit word, and the encoder (30_encoding R82 to R85). -/

namespace Sys2Proof

/-- Why a word is no command (30_encoding R84). -/
inductive DecodeError where
  | reservedBitsSet   -- RSV = w[31:8] is not zero
  | reservedOpcode    -- OP = w[7:0] is 0x00 or 0x06 to 0xFF
  deriving DecidableEq, Repr

/-- OP = w[7:0] (R82). -/
def opField (w : Word) : Byte := w.extractLsb' 0 8

/-- RSV = w[31:8] (R82). -/
def rsvField (w : Word) : BitVec 24 := w.extractLsb' 8 24

/-- The opcode map of R83. -/
def opcodeMap (op : Byte) : Option Instr :=
  if op = 0x01#8 then some .configure
  else if op = 0x02#8 then some .mkctl
  else if op = 0x03#8 then some .mkdata
  else if op = 0x04#8 then some .encode
  else if op = 0x05#8 then some .enccont
  else none

/-- "A decoder reads OP = w[7:0] and RSV = w[31:8] and nothing else" (R85). -/
def decodeWord (w : Word) : Except DecodeError Instr :=
  if rsvField w = 0 then
    match opcodeMap (opField w) with
    | some i => .ok i
    | none => .error .reservedOpcode
  else .error .reservedBitsSet

/-- The command word of a command (R83; the words of spec/opcode_table.json). -/
def encode : Instr → Word
  | .configure => 0x00000001
  | .mkctl => 0x00000002
  | .mkdata => 0x00000003
  | .encode => 0x00000004
  | .enccont => 0x00000005

/-- What the decoder reads from an instruction whose `nbits` table bits are `w`, every higher bit zero. A command
word is 32 bits (R82): no instruction is longer. -/
def decodeTableWord (nbits w : Nat) : Option Instr :=
  if nbits ≤ 32 then (decodeWord (BitVec.ofNat 32 (w % 2 ^ nbits))).toOption else none

end Sys2Proof
end

