-- ==== Sys2Proof/Machine/Bytes.lean ====
section
/-! DEFINITION. Byte sequences (00_scope R10) and byte order (20_memory R55, R56): least significant byte first. -/

namespace Sys2Proof.Machine

/-- `le16(v)` of R10. -/
def le16 (v : BitVec 16) : List Byte := [v.extractLsb' 0 8, v.extractLsb' 8 8]

/-- `le32(v)` of R10. -/
def le32 (v : Word) : List Byte :=
  [v.extractLsb' 0 8, v.extractLsb' 8 8, v.extractLsb' 16 8, v.extractLsb' 24 8]

/-- `rpad(b, n, x)` of R10, for `len(b) ≤ n`. -/
def rpad (b : List Byte) (n : Nat) (x : Byte) : List Byte := b ++ List.replicate (n - b.length) x

/-- The word whose bytes, least significant first, are `b`, the missing ones zero (R56). -/
def wordOfBytes : List Byte → Word
  | [] => 0
  | b :: bs => b.setWidth 32 ||| (wordOfBytes bs <<< 8)

end Sys2Proof.Machine
end

