-- ==== Sys2Proof/Machine/State.lean ====
section
/-! DEFINITION. The state of the machine: the tuple of 10_state R44 (registers, SESSION, PMEM, FMEM, OUT, COUT), the
host accesses still to be made, and the reset state. -/

namespace Sys2Proof.Machine

/-- SESSION.version (10_state R24, 00_scope R2). -/
inductive Version where
  | v1 | v2
  deriving DecidableEq, Repr

/-- SESSION.sampleFmt (R24). -/
inductive SampleFmt where
  | f32 | i16
  deriving DecidableEq, Repr

/-- SESSION.container (R24). -/
inductive Container where
  | pcm | compressed
  deriving DecidableEq, Repr

/-- The session latch (R24). -/
structure Session where
  valid       : Bool
  version     : Version
  lbr         : Bool
  sampleRate  : Word
  repeatCount : Word
  sampleFmt   : SampleFmt
  container   : Container
  deriving DecidableEq, Repr

/-- A sample of OUT (43_sequencer R172). -/
inductive Sample where
  | f32 (bits : F32)
  | i16 (value : I16)
  deriving DecidableEq, Repr

/-- The error codes of 60_exceptions R231, but OK. -/
inductive ErrorCode where
  | unsupportedVersion | blockTooLarge | unsupportedContainer | invalidSampleRate
  | notConfigured | illegalCommand | payloadOutOfRange
  deriving DecidableEq, Repr

/-- A byte memory: the bytes written since reset as (address, byte) pairs, addresses strictly rising (`Memory.wf`).
An unlisted address holds no defined value (20_memory R51, R52): a read of it is a free value (log 3, 12). -/
abbrev Memory := List Host.Cell

/-- The canonical form: addresses strictly rising, so none is listed twice. -/
abbrev Memory.wf (m : Memory) : Prop := m.Pairwise (fun x y => x.1 < y.1)

/-- Every listed address is below `n`. -/
abbrev Memory.below (m : Memory) (n : Nat) : Prop := ∀ c ∈ m, c.1 < n

/-- The registers of R23 that hold storage. CMD holds none (R35), STATUS.SESSION_VALID is SESSION.valid (R36), and
OUT_LEN and COUT_LEN are read as two words each (R38, R39). -/
structure Registers where
  err           : BitVec 8
  cfgVersion    : BitVec 8
  cfgLbr        : BitVec 1
  cfgSampleRate : BitVec 32
  cfgRepeat     : BitVec 32
  cfgSampleFmt  : BitVec 8
  cfgContainer  : BitVec 8
  plen          : BitVec 32
  argOff        : BitVec 32
  argLen        : BitVec 32
  argIdx        : BitVec 32
  flen          : BitVec 9
  outLen        : BitVec 64
  coutLen       : BitVec 64
  mimeSel       : BitVec 2
  deriving DecidableEq, Repr

/-- Why the machine stops with a fault: never. Every error of the block is a status code of the command just issued
(60_exceptions R230, R243), there is no trap, and the block holds all state while idle (R247). Safe: no step ends here. -/
inductive Fault where
  deriving DecidableEq, Repr

/-- Why there is no step. -/
inductive Refusal where
  /-- Raised by `exec` for an instruction that has no meaning yet. Safe. -/
  | notModelled (mnemonic : String)
  /-- Raised by a host access that touches the register window and is not an aligned 32-bit access: "refused by the
  model (it has no step; the host must not issue it)" (20_memory R56). Safe. -/
  | registerAccessForm
  /-- Raised by a host access that touches PMEM or FMEM and is not naturally aligned: "A misaligned PMEM or FMEM access
  is refused" (20_memory R56). Safe. -/
  | misalignedMemoryAccess
  deriving DecidableEq, Repr

/-- The whole state. -/
structure State where
  regs      : Registers
  session   : Session
  /-- PMEM by offset (20_memory R50). -/
  pmem      : Memory
  /-- FMEM by offset (20_memory R52). -/
  fmem      : Memory
  /-- OUT (20_memory R53). -/
  out       : List Sample
  /-- COUT (20_memory R54). -/
  cout      : List (BitVec 8)
  /-- The model's own: the host accesses still to be made, oldest first (20_memory R58; log 1). -/
  hostQueue : List HostAccess
  /-- The model's own: the values the host's reads returned, newest first (log 1). -/
  hostReads : List Word
  /-- The model's own: how many memory reads have drawn; the number of the next one (20_memory R51; log 3). -/
  draws     : Nat
  deriving DecidableEq, Repr

/-- The registers after reset (70_reset R260). -/
def Registers.reset : Registers where
  err := 0
  cfgVersion := 0
  cfgLbr := 0
  cfgSampleRate := 0
  cfgRepeat := 3
  cfgSampleFmt := 0
  cfgContainer := 0
  plen := 0
  argOff := 0
  argLen := 0
  argIdx := 0
  flen := 0
  outLen := 0
  coutLen := 0
  mimeSel := 0

/-- The session after reset: not valid (R261). DESIGN CHOICE (log 2): the spec leaves the other fields unspecified. -/
def Session.reset : Session where
  valid := false
  version := .v1
  lbr := false
  sampleRate := 0
  repeatCount := 0
  sampleFmt := .f32
  container := .pcm

/-- The machine after reset (70_reset R260 to R263): no byte of PMEM or FMEM holds a defined value, OUT and COUT are
empty, the block is idle. DESIGN CHOICE (log 1, 3): no access pending, none made, no draw taken. -/
def State.reset : State where
  regs := .reset
  session := .reset
  pmem := []
  fmem := []
  out := []
  cout := []
  hostQueue := []
  hostReads := []
  draws := 0

end Sys2Proof.Machine
end

