-- ==== Sys2Proof/Machine/Flags.lean ====
section
/-! DEFINITION. The block has no arithmetic flags (10_state R22): its only status is STATUS (R36), and the error codes
of 60_exceptions R231. -/

namespace Sys2Proof.Machine

/-- STATUS.ERR of an error (60_exceptions R231). -/
def ErrorCode.code : ErrorCode → BitVec 8
  | .unsupportedVersion => 0x01
  | .blockTooLarge => 0x02
  | .unsupportedContainer => 0x03
  | .invalidSampleRate => 0x04
  | .notConfigured => 0x05
  | .illegalCommand => 0x06
  | .payloadOutOfRange => 0x07

/-- STATUS.ERR of a successful command (60_exceptions R231, R233). -/
def codeOk : BitVec 8 := 0x00

/-- The STATUS word: ERR in bits [7:0], SESSION_VALID in bit [8], the rest 0 (10_state R36). -/
def statusWord (s : State) : Word :=
  s.regs.err.setWidth 32 ||| (if s.session.valid then 0x100#32 else 0#32)

end Sys2Proof.Machine
end

