-- ==== Sys2Proof/Machine/Ops.lean ====
section
/-! DEFINITION. The operations over memory and the primitives a command issues (00_scope R11): MemRead, FrameWrite,
OutWrite, ContainerWrite, and the abort `raise E` (60_exceptions R232). -/

namespace Sys2Proof.Machine

/-! ## Byte memory -/

/-- The byte written at an address, none where nothing has written it since reset. -/
def Memory.get : Memory → Nat → Option Byte
  | [], _ => none
  | (k, v) :: m, a => if a = k then some v else Memory.get m a

/-- Write one byte, keeping the addresses strictly rising. -/
def Memory.set : Memory → Nat → Byte → Memory
  | [], a, b => [(a, b)]
  | (k, v) :: m, a, b =>
    if a < k then (a, b) :: (k, v) :: m
    else if a = k then (a, b) :: m
    else (k, v) :: Memory.set m a b

/-- Write bytes at increasing addresses. -/
def Memory.writeBytes : Memory → Nat → List Byte → Memory
  | m, _, [] => m
  | m, a, b :: bs => Memory.writeBytes (m.set a b) (a + 1) bs

/-! ## The address map (20_memory R57), relative to AFE_BASE -/

/-- First address of the FMEM window. -/
def fmemBase : Nat := 0x1000

/-- Length of FMEM (20_memory R52). -/
def fmemSize : Nat := 272

/-- First address of the PMEM window. -/
def pmemBase : Nat := 0x01000000

/-! ## Reading -/

/-- The byte at PMEM offset `off`; where nothing has written it, the free value of the draw under way (20_memory R51). -/
def readPmem (s : State) (off : Nat) : Byte :=
  (s.pmem.get off).getD (Config.freeByte s.draws (pmemBase + off))

/-- The byte at FMEM offset `off`; where nothing has written it, the free value of the draw under way (20_memory R52). -/
def readFmem (s : State) (off : Nat) : Byte :=
  (s.fmem.get off).getD (Config.freeByte s.draws (fmemBase + off))

/-- `MemRead(addr, n)`: PMEM[addr : addr + n] (00_scope R11). Its draw is fixed for this read (20_memory R51): the
command that makes it also takes the draw (`takeDraw`). -/
def memRead (addr n : Nat) (s : State) : List Byte :=
  (List.range n).map fun k => readPmem s (addr + k)

/-- One memory read is done: the next one draws afresh (20_memory R51; log 3). -/
def takeDraw (s : State) : State := { s with draws := s.draws + 1 }

/-! ## Writing -/

/-- `FrameWrite(b)` (20_memory R52): FMEM[i] <- b[i], the bytes from len(b) on unchanged, FLEN <- len(b). -/
def frameWrite (b : List Byte) (s : State) : State :=
  { s with fmem := s.fmem.writeBytes 0 b, regs.flen := BitVec.ofNat 9 b.length }

/-- The value a 64-bit count register takes for a stream of `n` elements (10_state R38, R39). From 2^64 on no rule
states it: a free value (log 4). -/
def count64 (n : Nat) : BitVec 64 := if n < 2 ^ 64 then BitVec.ofNat 64 n else Config.freeCount64 n

/-- `OutWrite(s)` (20_memory R53): replaces OUT and sets OUT_LEN. -/
def outWrite (x : List Sample) (s : State) : State :=
  { s with out := x, regs.outLen := count64 x.length }

/-- `ContainerWrite(b, m)` (20_memory R54): replaces COUT and sets COUT_LEN and MIME_SEL. -/
def containerWrite (b : List Byte) (m : BitVec 2) (s : State) : State :=
  { s with cout := b, regs.coutLen := count64 b.length, regs.mimeSel := m }

/-! ## How a command ends -/

/-- `raise E` (60_exceptions R232): STATUS.ERR <- code, nothing else. This is all there is to taking an exception:
no vector, no saved context, no mode (R230); and there is no return (R243). -/
def raiseError (e : ErrorCode) (s : State) : State := { s with regs.err := e.code }

/-- A command completes without error: STATUS.ERR <- 0x00 (60_exceptions R233). -/
def succeed (s : State) : State := { s with regs.err := codeOk }

/-- SESSION.valid <- false; "every other session field" is kept (60_exceptions R232, 40_configure R107). -/
def invalidateSession (s : State) : State := { s with session.valid := false }

/-- SESSION <- S, the whole session at once (40_configure R106). -/
def latchSession (x : Session) (s : State) : State := { s with session := x }

/-- `fail(E)` of CONFIGURE (40_configure R101, R107): the session is invalidated and E is raised. -/
def failConfigure (e : ErrorCode) (s : State) : State := raiseError e (invalidateSession s)

/-- A CMD write of a word that is no command (30_encoding R84, 60_exceptions R235). -/
def illegalCommand (s : State) : State := raiseError .illegalCommand s

end Sys2Proof.Machine
end

