-- ==== Sys2Proof/Machine/Operands.lean ====
section
/-! DEFINITION. The operand forms: the register map and its accesses (10_state R23 to R41), the codes a configuration
register can hold (R25, R29, R30), the legal sample rates (40_configure R102), and the bytes of the host's address
space (20_memory R56, R57). -/

namespace Sys2Proof.Machine

/-! ## Codes held in the configuration registers -/

/-- The version a code requests: 0x01 V1, 0x02 V2 (10_state R25, 30_encoding R81). -/
def versionOfCode (code : BitVec 8) : Option Version :=
  if code = 0x01#8 then some .v1 else if code = 0x02#8 then some .v2 else none

/-- VERSION_CODE (30_encoding R81). -/
def versionCode : Version → Byte
  | .v1 => 0x01
  | .v2 => 0x02

/-- The sample format a code requests (10_state R29). -/
def sampleFmtOfCode (code : BitVec 8) : Option SampleFmt :=
  if code = 0x00#8 then some .f32 else if code = 0x01#8 then some .i16 else none

/-- The container a code requests (10_state R30). -/
def containerOfCode (code : BitVec 8) : Option Container :=
  if code = 0x00#8 then some .pcm else if code = 0x01#8 then some .compressed else none

/-- SAMPLE_RATE_OK(rate). Rate 0 "is never legal" (10_state R28); it is asked first so that the reset rate needs no
knowledge of the parameter (equal to the parameter by its constraint). -/
def rateOk (c : Params) (rate : Word) : Bool := if rate = 0 then false else c.sampleRateOk rate

/-! ## The register map -/

/-- The byte offset of a register (10_state R23). -/
def regOffset : Reg → Nat
  | .cmd => 0x00
  | .status => 0x04
  | .cfgVersion => 0x08
  | .cfgLbr => 0x0C
  | .cfgSampleRate => 0x10
  | .cfgRepeat => 0x14
  | .cfgSampleFmt => 0x18
  | .cfgContainer => 0x1C
  | .plen => 0x20
  | .argOff => 0x24
  | .argLen => 0x28
  | .argIdx => 0x2C
  | .flen => 0x30
  | .outLenLo => 0x34
  | .outLenHi => 0x38
  | .coutLenLo => 0x3C
  | .coutLenHi => 0x40
  | .mimeSel => 0x44

/-- The registers in the order of the table of R23. -/
def allRegs : List Reg :=
  [.cmd, .status, .cfgVersion, .cfgLbr, .cfgSampleRate, .cfgRepeat, .cfgSampleFmt, .cfgContainer, .plen, .argOff,
   .argLen, .argIdx, .flen, .outLenLo, .outLenHi, .coutLenLo, .coutLenHi, .mimeSel]

/-- The register at an offset of the window, none where it is reserved (R23, R41). -/
def regAt (off : Nat) : Option Reg := allRegs.find? fun r => regOffset r == off

/-- The word a register reads as: its used bits, the others 0 (R23); CMD reads 0 (R35). -/
def readReg (r : Reg) (s : State) : Word :=
  match r with
  | .cmd => 0
  | .status => statusWord s
  | .cfgVersion => s.regs.cfgVersion.setWidth 32
  | .cfgLbr => s.regs.cfgLbr.setWidth 32
  | .cfgSampleRate => s.regs.cfgSampleRate
  | .cfgRepeat => s.regs.cfgRepeat
  | .cfgSampleFmt => s.regs.cfgSampleFmt.setWidth 32
  | .cfgContainer => s.regs.cfgContainer.setWidth 32
  | .plen => s.regs.plen
  | .argOff => s.regs.argOff
  | .argLen => s.regs.argLen
  | .argIdx => s.regs.argIdx
  | .flen => s.regs.flen.setWidth 32
  | .outLenLo => s.regs.outLen.extractLsb' 0 32
  | .outLenHi => s.regs.outLen.extractLsb' 32 32
  | .coutLenLo => s.regs.coutLen.extractLsb' 0 32
  | .coutLenHi => s.regs.coutLen.extractLsb' 32 32
  | .mimeSel => s.regs.mimeSel.setWidth 32

/-- A host write of `v` to a register: an RW register takes its used bits of `v` (R23), a write to an R register is
ignored (R41). A write to CMD stores nothing: it runs a command (`runCommand`, R35). -/
def writeReg (r : Reg) (v : Word) (s : State) : State :=
  match r with
  | .cfgVersion => { s with regs.cfgVersion := v.extractLsb' 0 8 }
  | .cfgLbr => { s with regs.cfgLbr := v.extractLsb' 0 1 }
  | .cfgSampleRate => { s with regs.cfgSampleRate := v }
  | .cfgRepeat => { s with regs.cfgRepeat := v }
  | .cfgSampleFmt => { s with regs.cfgSampleFmt := v.extractLsb' 0 8 }
  | .cfgContainer => { s with regs.cfgContainer := v.extractLsb' 0 8 }
  | .plen => { s with regs.plen := v }
  | .argOff => { s with regs.argOff := v }
  | .argLen => { s with regs.argLen := v }
  | .argIdx => { s with regs.argIdx := v }
  | .cmd | .status | .flen | .outLenLo | .outLenHi | .coutLenLo | .coutLenHi | .mimeSel => s

/-- A word read at an offset of the register window: a reserved one reads 0 (R41). -/
def readWindow (off : Nat) (s : State) : Word :=
  match regAt off with
  | some r => readReg r s
  | none => 0

/-- A word written at an offset of the register window: a reserved one ignores it (R41). -/
def writeWindow (off : Nat) (v : Word) (s : State) : State :=
  match regAt off with
  | some r => writeReg r v s
  | none => s

/-! ## The bytes of the address space -/

/-- Where a relative address lies (20_memory R57). -/
inductive Region where
  | registers (off : Nat)
  | fmem (off : Nat)
  | pmem (off : Nat)
  | reserved
  deriving DecidableEq, Repr

/-- The address map of R57. -/
def regionOf (a : Nat) : Region :=
  if a < fmemBase then .registers a
  else if a < fmemBase + fmemSize then .fmem (a - fmemBase)
  else if a < pmemBase then .reserved
  else if a < pmemBase + Config.params.pmemSize then .pmem (a - pmemBase)
  else .reserved

/-- The address lies in the register window. -/
def inRegisters (a : Nat) : Bool :=
  match regionOf a with
  | .registers _ => true
  | .fmem _ | .pmem _ | .reserved => false

/-- The address lies in FMEM or PMEM. -/
def inMemory (a : Nat) : Bool :=
  match regionOf a with
  | .fmem _ | .pmem _ => true
  | .registers _ | .reserved => false

/-- The addresses an access of width `w` at `a` touches. -/
def touched (a : Nat) (w : Width) : List Nat := (List.range w.bytes).map fun k => a + k

/-- The form check of 20_memory R56: an access that touches the register window must be an aligned 32-bit one, an
access that touches FMEM or PMEM must be naturally aligned; R57 lets any other access be made (log 8, 9). -/
def accessRefusal (a : Nat) (w : Width) : Option Refusal :=
  if (touched a w).any inRegisters then
    if w = .word ∧ a % 4 = 0 then none else some .registerAccessForm
  else if (touched a w).any inMemory then
    if a % w.bytes = 0 then none else some .misalignedMemoryAccess
  else none

/-- The byte a host access reads at an address outside the register window: reserved addresses read 0 (R57). -/
def readHostByte (s : State) (a : Nat) : Byte :=
  match regionOf a with
  | .fmem off => readFmem s off
  | .pmem off => readPmem s off
  | .registers _ | .reserved => 0

/-- A byte a host access writes at an address outside the register window: FMEM and reserved addresses ignore it
(20_memory R52, R57). -/
def writeHostByte (a : Nat) (b : Byte) (s : State) : State :=
  match regionOf a with
  | .pmem off => { s with pmem := s.pmem.set off b }
  | .fmem _ | .registers _ | .reserved => s

/-- Bytes written at increasing addresses. -/
def writeHostBytes : Nat → List Byte → State → State
  | _, [], s => s
  | a, b :: bs, s => writeHostBytes (a + 1) bs (writeHostByte a b s)

/-! ## The media type (10_state R40, 44_external_ports R213) -/

/-- The string MIME_SEL denotes: none for 0, and for 3, which is never produced. -/
def mimeType (c : Params) (sel : BitVec 2) : Option String :=
  if sel = 1#2 then some c.mimePcm else if sel = 2#2 then some c.mimeCompressed else none

end Sys2Proof.Machine
end

