-- ==== Sys2Proof/Machine/Configure.lean ====
section
/-! DEFINITION. CONFIGURE (40_configure). -/

namespace Sys2Proof.Machine

/-- CONFIGURE (R101) under the parameters `c`: the checks in the order rate, version, sample format, container; the
whole session latched at once on success (R106), the session invalidated on failure (R107). -/
def configureWith (c : Params) (s : State) : Host.Outcome State Fault Refusal :=
  if rateOk c s.regs.cfgSampleRate = false then .next (failConfigure .invalidSampleRate s)
  else
    match versionOfCode s.regs.cfgVersion with
    | none => .next (failConfigure .unsupportedVersion s)
    | some v =>
      match sampleFmtOfCode s.regs.cfgSampleFmt with
      | none => .next (failConfigure .unsupportedContainer s)
      | some sf =>
        match containerOfCode s.regs.cfgContainer with
        | none => .next (failConfigure .unsupportedContainer s)
        | some cf =>
          .next (succeed (latchSession
            { valid := true, version := v, lbr := s.regs.cfgLbr == 1#1, sampleRate := s.regs.cfgSampleRate,
              repeatCount := s.regs.cfgRepeat, sampleFmt := sf, container := cf } s))

/-- CONFIGURE (R101) of this block. -/
def execConfigure (s : State) : Host.Outcome State Fault Refusal := configureWith Config.params s

end Sys2Proof.Machine
end

