-- ==== Sys2Proof/Machine/Whitening.lean ====
section
/-! DEFINITION. Whitening (42_whitening): the V1 and the V2 stripe, two distinct rules (R154, R157), over the 4-byte
Data header `hdr` and the 256-byte data field `dat`. -/

namespace Sys2Proof.Machine

/-- The V1 stripe (R150): only `dat` is touched. -/
def stripeV1 (hdr dat : List Byte) : List Byte × List Byte :=
  (hdr, dat.mapIdx fun i b =>
    if i % 16 = 3 then b ^^^ 0x55#8
    else if i % 16 = 11 then b ^^^ 0xAA#8
    else b)

/-- The V2 mask at index j of the virtual stream: `[0x35, 0xAC, 0x95][j % 3]` (R152). -/
def maskV2 (j : Nat) : Byte := if j % 3 = 0 then 0x35 else if j % 3 = 1 then 0xAC else 0x95

/-- The V2 stripe (R152): header bytes 2 and 3, then the data bytes, at stream index j = 2 … 259; header bytes 0 and 1
are left unstriped. -/
def stripeV2 (hdr dat : List Byte) : List Byte × List Byte :=
  (hdr.mapIdx fun j b => if 2 ≤ j ∧ j < 4 then b ^^^ maskV2 j else b,
   dat.mapIdx fun i b => b ^^^ maskV2 (i + 4))

/-- Each version is bound to its own stripe (R154). -/
def whiten (v : Version) (hdr dat : List Byte) : List Byte × List Byte :=
  match v with
  | .v1 => stripeV1 hdr dat
  | .v2 => stripeV2 hdr dat

end Sys2Proof.Machine
end

