-- ==== Sys2Proof/Machine/Frames.lean ====
section
/-! DEFINITION. The Control and Data frame formatters (41_frame_formatters R120 to R128) and the two commands that
expose them, MKCTL (R129) and MKDATA (R130). -/

namespace Sys2Proof.Machine

/-! ## The frame functions -/

/-- CONTROL_SEED (00_scope R7). -/
def controlSeed : Word := 0x32D0BABE

/-- FOOTER_SEED (00_scope R7). -/
def footerSeed : Word := 0xDEADBEEF

/-- Frame type code of a Control frame (30_encoding R72). -/
def typeControl : Byte := 0x01

/-- Frame type code of a Data frame (30_encoding R72). -/
def typeData : Byte := 0x02

/-- The pad byte (41_frame_formatters R126). -/
def padByte : Byte := 0xFF

/-- BLOCK_SIZE (00_scope R7). -/
def blockSize : Nat := 256

/-- `header(v, type, b2, b3)` (R121). -/
def header (v : Version) (type b2 b3 : Byte) : List Byte := [versionCode v, type, b2, b3]

/-- `footer(body)` (R122): over the frame body, the preamble not hashed. -/
def footer (c : Params) (body : List Byte) : List Byte := le32 (c.hash32 body footerSeed)

/-- `frame(body)` (R123). -/
def frame (c : Params) (body : List Byte) : List Byte :=
  c.preamble.toList ++ body ++ footer c body ++ [c.stop]

/-- The body of a Control frame: header, length, contentHash, contentDigest, no byte whitened (R124, R128). -/
def controlBody (c : Params) (v : Version) (p : List Byte) : List Byte :=
  header v typeControl 0x00 0x00 ++ le32 (BitVec.ofNat 32 p.length) ++ le32 (c.hash32 p controlSeed)
    ++ (c.digest128 p).toList

/-- `controlFrame(v, p)` (R124). -/
def controlFrame (c : Params) (v : Version) (p : List Byte) : List Byte := frame c (controlBody c v p)

/-- The Data header before whitening (R121, R125). -/
def dataHeader (v : Version) (idx : BitVec 16) : List Byte :=
  header v typeData (idx.extractLsb' 0 8) (idx.extractLsb' 8 8)

/-- The body of a Data frame: pad, then whiten (R125 to R127). -/
def dataBody (v : Version) (blk : List Byte) (idx : BitVec 16) : List Byte :=
  (whiten v (dataHeader v idx) (rpad blk blockSize padByte)).1
    ++ (whiten v (dataHeader v idx) (rpad blk blockSize padByte)).2

/-- `dataFrame(v, blk, idx)` (R125): the footer is computed over the whitened body (R127). -/
def dataFrame (c : Params) (v : Version) (blk : List Byte) (idx : BitVec 16) : List Byte := frame c (dataBody v blk idx)

/-! ## The commands -/

/-- MKCTL (R129). -/
def execMkctl (s : State) : Host.Outcome State Fault Refusal :=
  if s.session.valid = false then .next (raiseError .notConfigured s)
  else if s.regs.plen.toNat > Config.params.pmemSize then .next (raiseError .payloadOutOfRange s)
  else
    .next (succeed (takeDraw
      (frameWrite (controlFrame Config.params s.session.version (memRead 0 s.regs.plen.toNat s)) s)))

/-- MKDATA (R130): `off + n` is computed without wrap-around. -/
def execMkdata (s : State) : Host.Outcome State Fault Refusal :=
  if s.session.valid = false then .next (raiseError .notConfigured s)
  else if s.regs.argLen.toNat > blockSize then .next (raiseError .blockTooLarge s)
  else if s.regs.argIdx.toNat > 0xFFFF then .next (raiseError .blockTooLarge s)
  else if s.regs.argOff.toNat + s.regs.argLen.toNat > Config.params.pmemSize then
    .next (raiseError .payloadOutOfRange s)
  else
    .next (succeed (takeDraw
      (frameWrite (dataFrame Config.params s.session.version (memRead s.regs.argOff.toNat s.regs.argLen.toNat s)
        (s.regs.argIdx.setWidth 16)) s)))

end Sys2Proof.Machine
end

