-- ==== Sys2Proof/Machine/Sequencer.lean ====
section
/-! DEFINITION. The frame sequencer (43_sequencer): the plan (R171 to R175), its realisation as samples (R176 to R180)
and ENCODE (R170). -/

namespace Sys2Proof.Machine

/-- A segment of a plan (R171). -/
inductive Segment where
  | silence (n : Nat)
  | pilotTone
  | modulatedFrame (f : List Byte)
  deriving DecidableEq, Repr

/-- MAX_BLOCKS (00_scope R8). -/
def maxBlocks : Nat := 65536

/-- `ns(d) = floor(d · R / 1000)` (R175, R176). -/
def ns (R : Word) (d : Nat) : Nat := d * R.toNat / 1000

/-- The number of blocks of a payload of L bytes (R173). -/
def blockCount (L : Nat) : Nat := ceilDiv L blockSize

/-- Block b of a payload: `p[256·b : min(L, 256·(b+1))]` (R174). -/
def block (p : List Byte) (b : Nat) : List Byte := (p.drop (blockSize * b)).take blockSize

/-- Step 3 of the plan: pilot tone and pilot gap, in low-bitrate mode only (R175). -/
def pilotSegments (c : Params) (x : Session) : List Segment :=
  if x.lbr then [.pilotTone, .silence (ns x.sampleRate c.pilotGapMs)] else []

/-- Step 4: the one Control frame, twice (R175, R182). -/
def controlSegments (c : Params) (x : Session) (p : List Byte) : List Segment :=
  [.modulatedFrame (controlFrame c x.version p), .silence (ns x.sampleRate c.ctrlGapMs),
   .modulatedFrame (controlFrame c x.version p), .silence (ns x.sampleRate c.settleMs)]

/-- Step 5 for block b: its Data frame and the gap after it (R175). -/
def blockSegments (c : Params) (x : Session) (p : List Byte) (b : Nat) : List Segment :=
  [.modulatedFrame (dataFrame c x.version (block p b) (BitVec.ofNat 16 b)), .silence (ns x.sampleRate c.dataGapMs)]

/-- Step 5: the blocks ascending (R175). -/
def dataSegments (c : Params) (x : Session) (p : List Byte) : List Segment :=
  (List.range (blockCount p.length)).flatMap (blockSegments c x p)

/-- `plan(S, p)` (R175): lead, pilot, Control twice, Data frames, trail = lead. -/
def plan (c : Params) (x : Session) (p : List Byte) : List Segment :=
  [.silence (ns x.sampleRate c.leadMs)] ++ pilotSegments c x ++ controlSegments c x p ++ dataSegments c x p
    ++ [.silence (ns x.sampleRate c.leadMs)]

/-- The samples of one segment: binary32 +0.0 for silence (R176), the pilot samples from k = 0 (R177), the tone port's
output for a frame at SESSION.lbr (R178, 44_external_ports R207). -/
def realiseSegment (c : Params) (x : Session) : Segment → List F32
  | .silence n => List.replicate n 0#32
  | .pilotTone => (List.range (ns x.sampleRate c.pilotMs)).map fun k => c.pilotSample k x.sampleRate
  | .modulatedFrame f => c.modulate x.lbr x.sampleRate f

/-- `realise(S, P)` (R179). -/
def realise (c : Params) (x : Session) (P : List Segment) : List F32 := P.flatMap (realiseSegment c x)

/-- `convert(fmt, s)` (R180). -/
def convert (c : Params) (fmt : SampleFmt) (xs : List F32) : List Sample :=
  match fmt with
  | .f32 => xs.map .f32
  | .i16 => xs.map fun x => .i16 (c.quantize x)

/-- `encodeSamples(S, p)` (R170). -/
def encodeSamples (c : Params) (x : Session) (p : List Byte) : List Sample :=
  convert c x.sampleFmt (realise c x (plan c x p))

/-- ENCODE (R170). -/
def execEncode (s : State) : Host.Outcome State Fault Refusal :=
  if s.session.valid = false then .next (raiseError .notConfigured s)
  else if blockCount s.regs.plen.toNat > maxBlocks then .next (raiseError .blockTooLarge s)
  else if s.regs.plen.toNat > Config.params.pmemSize then .next (raiseError .payloadOutOfRange s)
  else
    .next (succeed (takeDraw
      (outWrite (encodeSamples Config.params s.session (memRead 0 s.regs.plen.toNat s)) s)))

end Sys2Proof.Machine
end

