-- ==== Sys2Proof/Machine/Container.lean ====
section
/-! DEFINITION. The container port (44_external_ports R210, R211) and ENCCONT (R212). -/

namespace Sys2Proof.Machine

/-- The one sample rate of the compressed profile (R211). -/
def compressedRate : Word := 44100

/-- `pcmContainer(R, q)` (R210): the header, then the samples, least significant byte first. -/
def pcmContainer (c : Params) (R : Word) (q : List I16) : List Byte :=
  (c.pcmHeader.bytes q.length R).toList ++ q.flatMap le16

/-- The samples ENCCONT containers: the realised plan, before any conversion (R212). -/
def containerSamples (c : Params) (x : Session) (p : List Byte) : List F32 := realise c x (plan c x p)

/-- COUT of a session's container (R212). -/
def containerBytes (c : Params) (x : Session) (p : List Byte) : List Byte :=
  match x.container with
  | .pcm => pcmContainer c x.sampleRate ((containerSamples c x p).map c.quantize)
  | .compressed => c.compressEncode (containerSamples c x p)

/-- MIME_SEL of a container (10_state R40, 44_external_ports R212). -/
def mimeSelOf : Container → BitVec 2
  | .pcm => 1
  | .compressed => 2

/-- ENCCONT (R212). OUT and OUT_LEN are not written. -/
def execEnccont (s : State) : Host.Outcome State Fault Refusal :=
  if s.session.valid = false then .next (raiseError .notConfigured s)
  else if blockCount s.regs.plen.toNat > maxBlocks then .next (raiseError .blockTooLarge s)
  else if s.regs.plen.toNat > Config.params.pmemSize then .next (raiseError .payloadOutOfRange s)
  else if s.session.container = .compressed ∧ s.session.sampleRate ≠ compressedRate then
    .next (raiseError .unsupportedContainer s)
  else
    .next (succeed (takeDraw
      (containerWrite (containerBytes Config.params s.session (memRead 0 s.regs.plen.toNat s))
        (mimeSelOf s.session.container) s)))

end Sys2Proof.Machine
end

