-- ==== Sys2Proof/Machine/Dispatch.lean ====
section
/-! DEFINITION. One arm per command. -/

namespace Sys2Proof.Machine

/-- The meaning of a command (30_encoding R83). -/
def exec (i : Instr) (s : State) : Host.Outcome State Fault Refusal :=
  match i with
  | .configure => Sys2Proof.Machine.execConfigure s
  | .mkctl => Sys2Proof.Machine.execMkctl s
  | .mkdata => Sys2Proof.Machine.execMkdata s
  | .encode => Sys2Proof.Machine.execEncode s
  | .enccont => Sys2Proof.Machine.execEnccont s

end Sys2Proof.Machine
end

