-- ==== Sys2Proof/Machine/HostPort.lean ====
section
/-! DEFINITION. The host side of the block: what one host access does (10_state R35, R41; 20_memory R56 to R58, R63). -/

namespace Sys2Proof.Machine

/-- A CMD write of `w` (10_state R35): the command `w` encodes, or the illegal-command error (30_encoding R84). -/
def runCommand (w : Word) (s : State) : Host.Outcome State Fault Refusal :=
  match decodeWord w with
  | .ok i => exec i s
  | .error _ => .next (illegalCommand s)

/-- The host observes the value its read returned (log 1). -/
def report (v : Word) (s : State) : State := { s with hostReads := v :: s.hostReads }

/-- A host read: a register word (R23, R41), or the bytes of FMEM, PMEM and the reserved ranges, least significant
first (20_memory R56, R57), which is one memory read (20_memory R51). No read has another effect (R63). -/
def hostRead (a : Nat) (w : Width) (s : State) : State :=
  match regionOf a with
  | .registers off => report (readWindow off s) s
  | .fmem _ | .pmem _ | .reserved => report (wordOfBytes ((touched a w).map (readHostByte s))) (takeDraw s)

/-- The bytes a host write of width `w` carries, least significant first (20_memory R56). -/
def writtenBytes (w : Width) (v : Word) : List Byte := (le32 v).take w.bytes

/-- A host write outside CMD: a register word (R23, R41), or bytes at increasing addresses (20_memory R56, R57). -/
def hostWrite (a : Nat) (w : Width) (v : Word) (s : State) : State :=
  match regionOf a with
  | .registers off => writeWindow off v s
  | .fmem _ | .pmem _ | .reserved => writeHostBytes a (writtenBytes w v) s

/-- One host access: refused where its form is (20_memory R56), a command where it is a CMD write (10_state R35), else
the read or the write. -/
def hostAccess (a : HostAccess) (s : State) : Host.Outcome State Fault Refusal :=
  match a with
  | .read addr w =>
    match accessRefusal addr.toNat w with
    | some r => .refused r
    | none => .next (hostRead addr.toNat w s)
  | .write addr w v =>
    match accessRefusal addr.toNat w with
    | some r => .refused r
    | none => if addr.toNat = regOffset .cmd then runCommand v s else .next (hostWrite addr.toNat w v s)

/-- The oldest pending access is taken; with none pending the block is idle and holds all state (60_exceptions R247). -/
def nextAccess (s : State) : Host.Outcome State Fault Refusal :=
  match s.hostQueue with
  | [] => .next s
  | a :: rest => hostAccess a { s with hostQueue := rest }

/-- The CMD write of a command word. -/
def cmdWrite (w : Word) : HostAccess := .write (BitVec.ofNat 32 (regOffset .cmd)) .word w

end Sys2Proof.Machine
end

