-- ==== Sys2Proof/Machine/Step.lean ====
section
/-! DEFINITION. One step: the next host access, with all its effects, before the one after it (20_memory R58). -/

namespace Sys2Proof.Machine

/-- One step of the machine. -/
def step (s : State) : Host.Outcome State Fault Refusal := nextAccess s

/-- `s` with the CMD write of a command word (its `nbits` table bits `w`, every higher bit zero) as the host's next
access: the block fetches no instructions (10_state R21), so this is where its next command comes from (log 1). -/
def State.withFetchWord (s : State) (nbits w : Nat) : State :=
  { s with hostQueue := cmdWrite (BitVec.ofNat 32 (w % 2 ^ nbits)) :: s.hostQueue }

end Sys2Proof.Machine
end

