-- ==== Sys2Proof/Machine/HostProgram.lean ====
section
/-! DEFINITION. Host programs: the bus accesses a program line stands for (30_encoding R86), and the bus addresses of
the platform (20_memory R57). -/

namespace Sys2Proof.Machine

/-- `WR <REG>, <imm32>`: a 32-bit write at the register's offset. -/
def wrAccess (r : Reg) (v : Word) : HostAccess := .write (BitVec.ofNat 32 (regOffset r)) .word v

/-- `WB <off>, <imm8>`: an 8-bit write at 0x0100_0000 + off. -/
def wbAccess (off : Nat) (v : Byte) : HostAccess := .write (BitVec.ofNat 32 (pmemBase + off)) .byte (v.setWidth 32)

/-- The accesses of one program line, in order (R86). -/
def expandOp : HostOp → List HostAccess
  | .wr r v => [wrAccess r v]
  | .rd r => [.read (BitVec.ofNat 32 (regOffset r)) .word]
  | .wb off v => [wbAccess off v]
  | .rb off => [.read (BitVec.ofNat 32 (pmemBase + off)) .byte]
  | .rf off => [.read (BitVec.ofNat 32 (fmemBase + off)) .byte]
  | .cmd i => [cmdWrite (encode i)]
  | .config ver lbr rate rep sfmt cfmt =>
    [wrAccess .cfgVersion ver, wrAccess .cfgLbr lbr, wrAccess .cfgSampleRate rate, wrAccess .cfgRepeat rep,
     wrAccess .cfgSampleFmt sfmt, wrAccess .cfgContainer cfmt, cmdWrite (encode .configure)]
  | .payload bytes => bytes.mapIdx wbAccess ++ [wrAccess .plen (BitVec.ofNat 32 bytes.length)]
  | .dataArgs off len idx => [wrAccess .argOff off, wrAccess .argLen len, wrAccess .argIdx idx]

/-- The accesses of a program: it is straight-line (95_test_vectors, part 3). -/
def expandProgram (p : List HostOp) : List HostAccess := p.flatMap expandOp

/-- A machine whose host is about to make the accesses of `p`, after those already pending. -/
def loadProgram (p : List HostOp) (s : State) : State := { s with hostQueue := s.hostQueue ++ expandProgram p }

/-- The platform's bus address of a relative address (20_memory R57; log 11). -/
def busAddress (c : Params) (addr : Word) : Nat := c.afeBase + addr.toNat

/-- The relative address of a bus address, none where it selects another part of the platform. -/
def relativeAddress (c : Params) (bus : Nat) : Option Word :=
  if c.afeBase ≤ bus ∧ bus < c.afeBase + 2 ^ 32 then some (BitVec.ofNat 32 (bus - c.afeBase)) else none

end Sys2Proof.Machine
end

