-- ==== Sys2Proof/Safety.lean ====
section
/-! DEFINITION. What a state the block can be in looks like: the invariants claims are stated over, and what it takes
for a host access to be made. -/

namespace Sys2Proof.Machine

/-- PMEM[off : off + n] has been written since reset (20_memory R51). -/
def PmemWritten (s : State) (off n : Nat) : Prop := ∀ k, k < n → ∃ b, s.pmem.get (off + k) = some b

/-- FMEM[0 : len(f)] holds `f`. -/
def BufferHolds (s : State) (f : List Byte) : Prop := ∀ i, i < f.length → s.fmem.get i = f[i]?

/-- A frame as a receiver checks it, byte by byte (30_encoding R70 to R78, 41_frame_formatters R134): preamble, a known
version code, a type code that agrees with the length, stop, and a footer over the body. -/
structure WellFormedFrame (c : Params) (f : List Byte) : Prop where
  preamble : f.take 7 = c.preamble.toList
  version : f[7]? = some 0x01#8 ∨ f[7]? = some 0x02#8
  type_length : (f[8]? = some 0x01#8 ∧ f.length = 40 ∧ f[9]? = some 0x00#8 ∧ f[10]? = some 0x00#8)
    ∨ (f[8]? = some 0x02#8 ∧ f.length = 272)
  footer : (f.drop (f.length - 5)).take 4
    = le32 (c.hash32 ((f.drop 7).take (f.length - 12)) 0xDEADBEEF#32)
  stop : f[f.length - 1]? = some c.stop

/-- Both memories are in canonical form and list no byte outside PMEM or FMEM (20_memory R50, R52). -/
structure MemoryCanonical (s : State) : Prop where
  pmem_wf : s.pmem.wf
  pmem_below : s.pmem.below Config.params.pmemSize
  fmem_wf : s.fmem.wf
  fmem_below : s.fmem.below fmemSize

/-- STATUS.ERR holds a code of 60_exceptions R231, and MIME_SEL a value that is produced (10_state R40). -/
structure StatusLegal (s : State) : Prop where
  err : s.regs.err.toNat ≤ 7
  mime : s.regs.mimeSel.toNat ≤ 2

/-- FLEN is 0, or FMEM[0 : FLEN] holds a well-formed frame of that length (10_state R37). -/
def FrameBufferLegal (s : State) : Prop :=
  s.regs.flen = 0#9 ∨
    ∃ f, WellFormedFrame Config.params f ∧ f.length = s.regs.flen.toNat ∧ BufferHolds s f

/-- The two length registers count the two output streams (10_state R38, R39). -/
structure OutputsCounted (s : State) : Prop where
  out : s.regs.outLen = count64 s.out.length
  cout : s.regs.coutLen = count64 s.cout.length

/-- A valid session runs at a legal sample rate (40_configure R102). -/
def SessionLegal (s : State) : Prop :=
  s.session.valid = true → Config.params.sampleRateOk s.session.sampleRate = true

/-- Every binary32 sample of OUT is in [-1, 1] (43_sequencer R172; log 6). -/
def SamplesInRange (s : State) : Prop := ∀ b, Sample.f32 b ∈ s.out → inUnit b = true

/-- MIME_SEL says what COUT holds: 0 none, 1 a PCM container, 2 a compressed one (10_state R40, 44_external_ports R210
to R212). -/
structure ContainerMatchesMime (s : State) : Prop where
  none : s.regs.mimeSel = 0#2 → s.cout = []
  pcm : s.regs.mimeSel = 1#2 → ∃ R q, s.cout = pcmContainer Config.params R q
  compressed : s.regs.mimeSel = 2#2 → ∃ xs, s.cout = Config.params.compressEncode xs

/-- The invariant of the block. -/
structure Inv (s : State) : Prop where
  memory : MemoryCanonical s
  status : StatusLegal s
  buffer : FrameBufferLegal s
  outputs : OutputsCounted s
  session : SessionLegal s
  samples : SamplesInRange s
  container : ContainerMatchesMime s

/-- The form of an access (20_memory R56, R57), in numbers: an access that touches the register window is an aligned
word; one that touches FMEM or PMEM is naturally aligned. -/
def FormLegal (a n : Nat) : Prop :=
  (a < 0x1000 → n = 4 ∧ a % 4 = 0) ∧
  ((∃ k, k < n ∧ ((0x1000 ≤ a + k ∧ a + k < 0x1110)
      ∨ (0x01000000 ≤ a + k ∧ a + k < 0x01000000 + Config.params.pmemSize))) → a % n = 0)

/-- A host access's address and width in bytes. -/
def accessSpan : HostAccess → Nat × Nat
  | .read addr w => (addr.toNat, w.bytes)
  | .write addr w _ => (addr.toNat, w.bytes)

/-- A safe state: the host's next access, if any, is one the block can perform, so `step` answers a next state. -/
def Safe (s : State) : Prop :=
  ∀ a rest, s.hostQueue = a :: rest → FormLegal (accessSpan a).1 (accessSpan a).2

end Sys2Proof.Machine
end

