-- ==== Sys2Proof/Certificates/Slice0/Obligations.lean ====
section
/-! DEFINITION. The statements about the machine, from the numbered rules of spec/.

A statement about a step reads the host's next access from the model's own queue (log 1), and so rests on that form. A
memory read moves the model's own draw number (log 3), and a count register is `count64` (log 4). -/

open Sys2Proof Sys2Proof.Machine

namespace Sys2Proof.Machine

/-! ## Tables of the spec the statements are written with, apart from the machine's own -/

/-- The registers of 10_state R23 with their offsets. -/
def registerTable : List (Word × Reg) :=
  [(0x00, .cmd), (0x04, .status), (0x08, .cfgVersion), (0x0C, .cfgLbr), (0x10, .cfgSampleRate), (0x14, .cfgRepeat),
   (0x18, .cfgSampleFmt), (0x1C, .cfgContainer), (0x20, .plen), (0x24, .argOff), (0x28, .argLen), (0x2C, .argIdx),
   (0x30, .flen), (0x34, .outLenLo), (0x38, .outLenHi), (0x3C, .coutLenLo), (0x40, .coutLenHi), (0x44, .mimeSel)]

/-- The RW registers of R23 with their offsets and used bits. -/
def rwTable : List (Word × Reg × Word) :=
  [(0x08, .cfgVersion, 0xFF), (0x0C, .cfgLbr, 0x1), (0x10, .cfgSampleRate, 0xFFFFFFFF), (0x14, .cfgRepeat, 0xFFFFFFFF),
   (0x18, .cfgSampleFmt, 0xFF), (0x1C, .cfgContainer, 0xFF), (0x20, .plen, 0xFFFFFFFF), (0x24, .argOff, 0xFFFFFFFF),
   (0x28, .argLen, 0xFFFFFFFF), (0x2C, .argIdx, 0xFFFFFFFF)]

/-- The mask on data byte i: 42_whitening R151 (V1), R153 (V2). -/
def stripeMask : Version → Nat → Byte
  | .v1, i => if i % 16 = 3 then 0x55 else if i % 16 = 11 then 0xAA else 0x00
  | .v2, i => if i % 3 = 0 then 0xAC else if i % 3 = 1 then 0x95 else 0x35

/-- The mask on header byte j: none in V1 (R150), 0x95 and 0x35 on bytes 2 and 3 in V2 (R153). -/
def headerMask : Version → Nat → Byte
  | .v1, _ => 0x00
  | .v2, j => if j = 2 then 0x95 else if j = 3 then 0x35 else 0x00

/-- The number of blocks, ceil(L / 256) (43_sequencer R173). -/
def blocksOf (L : Nat) : Nat := (L + 255) / 256

/-- samplesPerBit(lbr, R) = R / BITRATE(lbr) as a rational (44_external_ports R205). -/
def samplesPerBit (c : Params) (lbr : Bool) (R : Word) : ℚ := R.toNat / ((c.bitrate lbr).num / (c.bitrate lbr).den)

/-- The version code (30_encoding R81) and the codes of 10_state R29, R30. -/
def versionHasCode (code : BitVec 8) (v : Version) : Prop := (code = 0x01 ∧ v = .v1) ∨ (code = 0x02 ∧ v = .v2)

def formatHasCode (code : BitVec 8) (f : SampleFmt) : Prop := (code = 0x00 ∧ f = .f32) ∨ (code = 0x01 ∧ f = .i16)

def containerHasCode (code : BitVec 8) (k : Container) : Prop :=
  (code = 0x00 ∧ k = .pcm) ∨ (code = 0x01 ∧ k = .compressed)

/-- The session a CONFIGURE latches with these choices (40_configure R101). -/
def sessionFrom (g : Registers) (v : Version) (f : SampleFmt) (k : Container) : Session where
  valid := true
  version := v
  lbr := g.cfgLbr.toNat == 1
  sampleRate := g.cfgSampleRate
  repeatCount := g.cfgRepeat
  sampleFmt := f
  container := k

/-- The error code of a CMD write of `w`, the first in the order of 60_exceptions R234; 0x00 where none applies. -/
def firstError (w : Word) (s : State) : BitVec 8 :=
  if ¬(1 ≤ w.toNat ∧ w.toNat ≤ 5) then 0x06
  else if w.toNat = 1 then
    if Config.params.sampleRateOk s.regs.cfgSampleRate = false then 0x04
    else if s.regs.cfgVersion.toNat ≠ 1 ∧ s.regs.cfgVersion.toNat ≠ 2 then 0x01
    else if 1 < s.regs.cfgSampleFmt.toNat ∨ 1 < s.regs.cfgContainer.toNat then 0x03
    else 0x00
  else if s.session.valid = false then 0x05
  else if w.toNat = 2 then
    if Config.params.pmemSize < s.regs.plen.toNat then 0x07 else 0x00
  else if w.toNat = 3 then
    if 256 < s.regs.argLen.toNat ∨ 65535 < s.regs.argIdx.toNat then 0x02
    else if Config.params.pmemSize < s.regs.argOff.toNat + s.regs.argLen.toNat then 0x07
    else 0x00
  else if 2 ^ 24 < s.regs.plen.toNat then 0x02
  else if Config.params.pmemSize < s.regs.plen.toNat then 0x07
  else if w.toNat = 5 ∧ s.session.container = .compressed ∧ s.session.sampleRate.toNat ≠ 44100 then 0x03
  else 0x00

/-- The PMEM bytes a command reads have been written: none for CONFIGURE, PMEM[ARG_OFF : ARG_OFF + ARG_LEN] for MKDATA,
PMEM[0 : PLEN] for the others. -/
def OperandsWritten (i : Instr) (s : State) : Prop :=
  match i with
  | .configure => True
  | .mkctl => PmemWritten s 0 s.regs.plen.toNat
  | .mkdata => PmemWritten s s.regs.argOff.toNat s.regs.argLen.toNat
  | .encode => PmemWritten s 0 s.regs.plen.toNat
  | .enccont => PmemWritten s 0 s.regs.plen.toNat

/-- A word reads as `n` bytes, least significant first: the written ones of `m` from `off` on, and for each unwritten
one the free value of draw `d` at its relative address, `base + off` on. -/
def ReadsBytes (v : Word) (n : Nat) (m : Memory) (base off d : Nat) : Prop :=
  v.toNat < 2 ^ (8 * n) ∧ ∀ k, k < n →
    (∀ b, m.get (off + k) = some b → BitVec.ofNat 8 (v.toNat / 2 ^ (8 * k)) = b) ∧
    (m.get (off + k) = none → BitVec.ofNat 8 (v.toNat / 2 ^ (8 * k)) = Config.freeByte d (base + (off + k)))

end Sys2Proof.Machine

/-! ## Encoding -/

/-- The five words of the opcode table, written out (30_encoding R83), decode to their commands. -/
def Obligations.TableWordsDecode : Prop :=
  decodeWord 0b00000000000000000000000000000001#32 = .ok .configure ∧
  decodeWord 0b00000000000000000000000000000010#32 = .ok .mkctl ∧
  decodeWord 0b00000000000000000000000000000011#32 = .ok .mkdata ∧
  decodeWord 0b00000000000000000000000000000100#32 = .ok .encode ∧
  decodeWord 0b00000000000000000000000000000101#32 = .ok .enccont

/-- R83, R85: the decoder and the encoder agree in both directions, over every word. -/
def Obligations.DecoderAcceptsExactlyTheEncodings : Prop :=
  ∀ (w : Word) (i : Instr), decodeWord w = .ok i ↔ w = encode i

/-- R84: which words are no command, and why. -/
def Obligations.IllegalWordsAreRejectedByName : Prop :=
  ∀ w : Word,
    (w.toNat / 256 ≠ 0 → decodeWord w = .error .reservedBitsSet) ∧
    (w.toNat / 256 = 0 → w.toNat % 256 = 0 ∨ 6 ≤ w.toNat % 256 → decodeWord w = .error .reservedOpcode)

/-! ## The step -/

/-- 10_state R35: a host write of a word that decodes to `i` runs `i`, the access being taken. -/
def Obligations.CmdWriteRunsTheDecodedCommand : Prop :=
  ∀ (s : State) (w : Word) (i : Instr) (rest : List HostAccess),
    s.hostQueue = .write 0 .word w :: rest → decodeWord w = .ok i →
      step s = exec i { s with hostQueue := rest }

/-- The command placed by `withFetchWord` is the one the next step runs, on the same state (log 1). -/
def Obligations.PlacedCommandRunsNext : Prop :=
  ∀ (s : State) (i : Instr), step (s.withFetchWord 32 (encode i).toNat) = exec i s

/-- 60_exceptions R235. -/
def Obligations.IllegalCommandChangesOnlyErr : Prop :=
  ∀ (s : State) (w : Word) (rest : List HostAccess),
    s.hostQueue = .write 0 .word w :: rest →
    (w.toNat / 256 ≠ 0 ∨ w.toNat % 256 = 0 ∨ 6 ≤ w.toNat % 256) →
      step s = .next { s with hostQueue := rest, regs.err := 0x06 }

/-- 60_exceptions R247: the block is idle and holds all state. That idle means an empty queue is the model's (log 1). -/
def Obligations.IdleStepHoldsAllState : Prop :=
  ∀ s : State, s.hostQueue = [] → step s = .next s

/-- 20_memory R56: the model has a step exactly where the next access has a legal form, and no step faults. -/
def Obligations.StepAnswersExactlyOnLegalForms : Prop :=
  ∀ s : State, ((∃ t, step s = .next t) ↔ Safe s) ∧ ∀ f, step s ≠ .fault f

/-- 20_memory R56: each forbidden form is refused by its name. That the first clause covers the reserved offsets of the
register window too is the model's reading (log 9). -/
def Obligations.ForbiddenAccessFormsAreRefused : Prop :=
  ∀ (s : State) (a : HostAccess) (rest : List HostAccess), s.hostQueue = a :: rest →
    ((accessSpan a).1 < 0x1000 → ¬((accessSpan a).2 = 4 ∧ (accessSpan a).1 % 4 = 0) →
      step s = .refused .registerAccessForm) ∧
    (0x1000 ≤ (accessSpan a).1 → ¬ FormLegal (accessSpan a).1 (accessSpan a).2 →
      step s = .refused .misalignedMemoryAccess)

/-! ## Reset -/

/-- 70_reset R260: every register of R23 reads its reset value. -/
def Obligations.ResetRegisterValues : Prop :=
  ∀ r : Reg, readReg r State.reset = if r = .cfgRepeat then 3 else 0

/-- 70_reset R261, R262: no session, no defined byte, empty outputs; a CONFIGURE straight after reset fails. -/
def Obligations.ResetSessionAndMemories : Prop :=
  State.reset.session.valid = false ∧
  (∀ a, State.reset.pmem.get a = none ∧ State.reset.fmem.get a = none) ∧
  State.reset.out = [] ∧ State.reset.cout = [] ∧
  exec .configure State.reset = .next { State.reset with regs.err := 0x04 }

/-- Reset meets the invariant (whose sample range rests on log 6, whose memory form on log 12). -/
def Obligations.ResetMeetsTheInvariant : Prop := Inv State.reset

/-! ## Registers -/

/-- R23, 20_memory R63: an RW register keeps its used bits of what is written, and nothing else changes. -/
def Obligations.RwRegisterWriteKeepsTheUsedBits : Prop :=
  ∀ (s : State) (off : Word) (r : Reg) (mask v : Word) (rest : List HostAccess),
    (off, r, mask) ∈ rwTable → s.hostQueue = .write off .word v :: rest →
      ∃ t, step s = .next t ∧ readReg r t = v &&& mask ∧ (∀ r', r' ≠ r → readReg r' t = readReg r' s) ∧
        t = { s with hostQueue := rest, regs := t.regs }

/-- R23: a register read returns the register's word and changes nothing else. -/
def Obligations.RegisterReadReportsTheRegister : Prop :=
  ∀ (s : State) (off : Word) (r : Reg) (rest : List HostAccess),
    (off, r) ∈ registerTable → s.hostQueue = .read off .word :: rest →
      step s = .next { s with hostQueue := rest, hostReads := readReg r s :: s.hostReads }

/-- 10_state R36 (the fields), R35 (CMD), R37 to R40 (the result registers): what the read-only registers read as. -/
def Obligations.ReadOnlyRegistersReadTheirFields : Prop :=
  ∀ s : State,
    (readReg .status s).toNat = s.regs.err.toNat + (if s.session.valid then 256 else 0) ∧
    readReg .cmd s = 0 ∧ (readReg .flen s).toNat = s.regs.flen.toNat ∧
    (readReg .mimeSel s).toNat = s.regs.mimeSel.toNat ∧
    (readReg .outLenHi s).toNat * 2 ^ 32 + (readReg .outLenLo s).toNat = s.regs.outLen.toNat ∧
    (readReg .coutLenHi s).toNat * 2 ^ 32 + (readReg .coutLenLo s).toNat = s.regs.coutLen.toNat

/-- 10_state R41. -/
def Obligations.ReservedAndReadOnlyWordsIgnoreWrites : Prop :=
  ∀ (s : State) (a v : Word) (rest : List HostAccess), a.toNat < 0x1000 → a.toNat % 4 = 0 →
    ((a.toNat = 4 ∨ 0x30 ≤ a.toNat) → s.hostQueue = .write a .word v :: rest →
      step s = .next { s with hostQueue := rest }) ∧
    (0x48 ≤ a.toNat → s.hostQueue = .read a .word :: rest →
      step s = .next { s with hostQueue := rest, hostReads := 0 :: s.hostReads })

/-! ## PMEM, FMEM and the reserved ranges -/

/-- 20_memory R56, R63: an aligned PMEM write stores the bytes at increasing addresses as increasing significance, and
changes nothing else. -/
def Obligations.PmemWriteStoresLittleEndian : Prop :=
  ∀ (s : State) (off : Nat) (w : Width) (v : Word) (rest : List HostAccess),
    off + w.bytes ≤ Config.params.pmemSize → off % w.bytes = 0 →
    s.hostQueue = .write (BitVec.ofNat 32 (0x01000000 + off)) w v :: rest →
      ∃ t, step s = .next t ∧
        (∀ k, k < w.bytes → t.pmem.get (off + k) = some (BitVec.ofNat 8 (v.toNat / 2 ^ (8 * k)))) ∧
        (∀ x, x < off ∨ off + w.bytes ≤ x → t.pmem.get x = s.pmem.get x) ∧
        t = { s with hostQueue := rest, pmem := t.pmem }

/-- 20_memory R56, R51, R52: an aligned PMEM or FMEM read returns its bytes, least significant first: a written byte "byte
for byte" as the earlier accesses wrote it, an unwritten one the free value of the draw (whose form is the model's,
log 3). -/
def Obligations.MemoryReadReportsLittleEndian : Prop :=
  ∀ (s : State) (off : Nat) (w : Width) (rest : List HostAccess), off % w.bytes = 0 →
    (off + w.bytes ≤ Config.params.pmemSize →
      s.hostQueue = .read (BitVec.ofNat 32 (0x01000000 + off)) w :: rest →
        ∃ v, step s = .next { s with hostQueue := rest, hostReads := v :: s.hostReads, draws := s.draws + 1 } ∧
          ReadsBytes v w.bytes s.pmem 0x01000000 off s.draws) ∧
    (off + w.bytes ≤ 272 →
      s.hostQueue = .read (BitVec.ofNat 32 (0x1000 + off)) w :: rest →
        ∃ v, step s = .next { s with hostQueue := rest, hostReads := v :: s.hostReads, draws := s.draws + 1 } ∧
          ReadsBytes v w.bytes s.fmem 0x1000 off s.draws)

/-- 20_memory R52, R57: a write that touches no PMEM byte and no register is ignored (in the reserved ranges at any
alignment: the model's, log 9). -/
def Obligations.WritesOutsidePmemAreIgnored : Prop :=
  ∀ (s : State) (a : Word) (w : Width) (v : Word) (rest : List HostAccess),
    s.hostQueue = .write a w v :: rest → 0x1000 ≤ a.toNat → FormLegal a.toNat w.bytes →
    (∀ k, k < w.bytes → a.toNat + k < 0x01000000 ∨ 0x01000000 + Config.params.pmemSize ≤ a.toNat + k) →
      step s = .next { s with hostQueue := rest }

/-- 20_memory R57: a read of reserved bytes returns 0. That it does so at any alignment is the model's (log 9). -/
def Obligations.ReservedBytesReadZero : Prop :=
  ∀ (s : State) (a : Word) (w : Width) (rest : List HostAccess),
    s.hostQueue = .read a w :: rest → 0x1110 ≤ a.toNat →
    (∀ k, k < w.bytes → a.toNat + k < 0x01000000 ∨ 0x01000000 + Config.params.pmemSize ≤ a.toNat + k) →
      step s = .next { s with hostQueue := rest, hostReads := 0 :: s.hostReads, draws := s.draws + 1 }

/-- 20_memory R63: a read returns a value and changes nothing (the model's draw number apart, log 3). -/
def Obligations.ReadsHaveNoSideEffect : Prop :=
  ∀ (s t : State) (a : Word) (w : Width) (rest : List HostAccess),
    s.hostQueue = .read a w :: rest → step s = .next t →
      ∃ v, t = { s with hostQueue := rest, hostReads := v :: s.hostReads, draws := t.draws }

/-- 00_scope R11, 20_memory R51: MemRead returns the written bytes, and the draw's free value where none was written. -/
def Obligations.EngineReadsWhatWasWritten : Prop :=
  ∀ (s : State) (addr n k : Nat), k < n →
    (memRead addr n s).length = n ∧
    (∀ b, s.pmem.get (addr + k) = some b → (memRead addr n s)[k]? = some b) ∧
    (s.pmem.get (addr + k) = none →
      (memRead addr n s)[k]? = some (Config.freeByte s.draws (0x01000000 + (addr + k))))

/-! ## CONFIGURE -/

/-- 40_configure R106: with every check passed, the session is latched whole and nothing else but STATUS.ERR changes; of
this block, and under every choice of the parameters (which rates are legal is open, 00_scope R8). -/
def Obligations.ConfigureLatchesTheSession : Prop :=
  ∀ (s : State) (v : Version) (f : SampleFmt) (k : Container), versionHasCode s.regs.cfgVersion v →
    formatHasCode s.regs.cfgSampleFmt f → containerHasCode s.regs.cfgContainer k →
    (Config.params.sampleRateOk s.regs.cfgSampleRate = true →
      exec .configure s = .next { s with session := sessionFrom s.regs v f k, regs.err := 0x00 }) ∧
    ∀ c : Params, c.sampleRateOk s.regs.cfgSampleRate = true →
      configureWith c s = .next { s with session := sessionFrom s.regs v f k, regs.err := 0x00 }

/-- 40_configure R107: a failed CONFIGURE invalidates the session, and every other command then fails with
NOT_CONFIGURED and no other effect. -/
def Obligations.FailedConfigureLocksTheOtherCommands : Prop :=
  ∀ s : State, firstError 0x01 s ≠ 0x00 →
    ∃ t, exec .configure s = .next t ∧ t = { s with session.valid := false, regs.err := firstError 0x01 s } ∧
      ∀ i, i ≠ .configure → exec i t = .next { t with regs.err := 0x05 }

/-! ## Frames and the frame commands -/

/-- 30_encoding R73: the Control frame, byte by byte. -/
def Obligations.ControlFrameLayout : Prop :=
  ∀ (c : Params) (v : Version) (p : List Byte), p.length < 2 ^ 32 →
    (controlFrame c v p).length = 40 ∧
    (controlFrame c v p).take 7 = c.preamble.toList ∧
    (controlFrame c v p)[7]? = some (match v with | .v1 => 0x01#8 | .v2 => 0x02#8) ∧
    (controlFrame c v p)[8]? = some 0x01#8 ∧
    (controlFrame c v p)[9]? = some 0x00#8 ∧
    (controlFrame c v p)[10]? = some 0x00#8 ∧
    (∀ k, k < 4 → (controlFrame c v p)[11 + k]? = some (BitVec.ofNat 8 (p.length / 2 ^ (8 * k)))) ∧
    (∀ k, k < 4 → (controlFrame c v p)[15 + k]?
      = some (BitVec.ofNat 8 ((c.hash32 p 0x32D0BABE#32).toNat / 2 ^ (8 * k)))) ∧
    ((controlFrame c v p).drop 19).take 16 = (c.digest128 p).toList ∧
    (∀ k, k < 4 → (controlFrame c v p)[35 + k]?
      = some (BitVec.ofNat 8 ((c.hash32 (((controlFrame c v p).drop 7).take 28) 0xDEADBEEF#32).toNat / 2 ^ (8 * k)))) ∧
    (controlFrame c v p)[39]? = some c.stop

/-- 30_encoding R74: the Data frame, byte by byte, whitened as the version's masks say. -/
def Obligations.DataFrameLayout : Prop :=
  ∀ (c : Params) (v : Version) (blk : List Byte) (idx : BitVec 16), blk.length ≤ 256 →
    (dataFrame c v blk idx).length = 272 ∧
    (dataFrame c v blk idx).take 7 = c.preamble.toList ∧
    (dataFrame c v blk idx)[7]? = some (match v with | .v1 => 0x01#8 | .v2 => 0x02#8) ∧
    (dataFrame c v blk idx)[8]? = some 0x02#8 ∧
    (dataFrame c v blk idx)[9]? = some (BitVec.ofNat 8 idx.toNat ^^^ headerMask v 2) ∧
    (dataFrame c v blk idx)[10]? = some (BitVec.ofNat 8 (idx.toNat / 256) ^^^ headerMask v 3) ∧
    (∀ i, i < 256 → (dataFrame c v blk idx)[11 + i]? = some ((blk[i]?).getD 0xFF#8 ^^^ stripeMask v i)) ∧
    (∀ k, k < 4 → (dataFrame c v blk idx)[267 + k]?
      = some (BitVec.ofNat 8
          ((c.hash32 (((dataFrame c v blk idx).drop 7).take 260) 0xDEADBEEF#32).toNat / 2 ^ (8 * k)))) ∧
    (dataFrame c v blk idx)[271]? = some c.stop

/-- 41_frame_formatters R134, R135: whatever the formatters make, a receiver's checks accept. -/
def Obligations.FormattersMakeWellFormedFrames : Prop :=
  ∀ (c : Params) (v : Version),
    (∀ p, WellFormedFrame c (controlFrame c v p)) ∧
    (∀ blk idx, blk.length ≤ 256 → WellFormedFrame c (dataFrame c v blk idx))

/-- 41_frame_formatters R129, 20_memory R52: MKCTL writes the 40 bytes of the payload's Control frame and nothing else:
FMEM[40 : 272], PMEM, the session, OUT, COUT and the other registers keep their values. -/
def Obligations.MkctlWritesTheControlFrame : Prop :=
  ∀ s : State, s.session.valid = true → s.regs.plen.toNat ≤ Config.params.pmemSize →
    ∃ t, exec .mkctl s = .next t ∧
      BufferHolds t (controlFrame Config.params s.session.version (memRead 0 s.regs.plen.toNat s)) ∧
      (∀ a, 40 ≤ a → t.fmem.get a = s.fmem.get a) ∧
      t = { s with fmem := t.fmem, regs.flen := 40, regs.err := 0x00, draws := s.draws + 1 }

/-- 41_frame_formatters R130: MKDATA writes the 272 bytes of the block's Data frame and nothing else. -/
def Obligations.MkdataWritesTheDataFrame : Prop :=
  ∀ s : State, s.session.valid = true → s.regs.argLen.toNat ≤ 256 → s.regs.argIdx.toNat ≤ 0xFFFF →
    s.regs.argOff.toNat + s.regs.argLen.toNat ≤ Config.params.pmemSize →
    ∃ t, exec .mkdata s = .next t ∧
      BufferHolds t (dataFrame Config.params s.session.version
        (memRead s.regs.argOff.toNat s.regs.argLen.toNat s) (BitVec.ofNat 16 s.regs.argIdx.toNat)) ∧
      (∀ a, 272 ≤ a → t.fmem.get a = s.fmem.get a) ∧
      t = { s with fmem := t.fmem, regs.flen := 272, regs.err := 0x00, draws := s.draws + 1 }

/-! ## Whitening -/

/-- 42_whitening R155. -/
def Obligations.WhiteningIsAnInvolution : Prop :=
  ∀ (v : Version) (hdr dat : List Byte),
    whiten v (whiten v hdr dat).1 (whiten v hdr dat).2 = (hdr, dat)

/-- 42_whitening R150. -/
def Obligations.StripeV1TouchesOnlyItsDataBytes : Prop :=
  ∀ (hdr dat : List Byte), hdr.length = 4 → dat.length = 256 →
    (stripeV1 hdr dat).1 = hdr ∧ (stripeV1 hdr dat).2.length = 256 ∧
    ∀ i b, i < 256 → dat[i]? = some b →
      (i % 16 = 3 → (stripeV1 hdr dat).2[i]? = some (b ^^^ 0x55)) ∧
      (i % 16 = 11 → (stripeV1 hdr dat).2[i]? = some (b ^^^ 0xAA)) ∧
      (i % 16 ≠ 3 → i % 16 ≠ 11 → (stripeV1 hdr dat).2[i]? = some b)

/-- 42_whitening R152: the virtual stream of header bytes 2, 3 and the data bytes, index j = 2 … 259; header bytes 0
and 1 are left as they are. -/
def Obligations.StripeV2WalksItsStream : Prop :=
  ∀ (hdr dat : List Byte), hdr.length = 4 → dat.length = 256 →
    (stripeV2 hdr dat).1.length = 4 ∧ (stripeV2 hdr dat).2.length = 256 ∧
    (stripeV2 hdr dat).1.take 2 = hdr.take 2 ∧
    ∀ j b, 2 ≤ j → j ≤ 259 → (hdr ++ dat)[j]? = some b →
      ((stripeV2 hdr dat).1 ++ (stripeV2 hdr dat).2)[j]?
        = some (b ^^^ ([0x35#8, 0xAC#8, 0x95#8][j % 3]?).getD 0x00#8)

/-! ## The sequencer -/

/-- 43_sequencer R174: the blocks of a payload, end to end, are the payload; all but the last are 256 bytes, and the
last is what is left. -/
def Obligations.BlocksPartitionThePayload : Prop :=
  ∀ p : List Byte,
    (List.range (blocksOf p.length)).flatMap (block p) = p ∧
    ∀ b, b < blocksOf p.length →
      block p b = (p.take (min p.length (256 * (b + 1)))).drop (256 * b) ∧
      (b + 1 < blocksOf p.length → (block p b).length = 256) ∧
      (b + 1 = blocksOf p.length → (block p b).length = p.length - 256 * (blocksOf p.length - 1) ∧
        1 ≤ (block p b).length ∧ (block p b).length ≤ 256)

/-- 43_sequencer R184: the plan's segments, in order, and how many there are. -/
def Obligations.PlanHasTheFixedSegmentOrder : Prop :=
  ∀ (c : Params) (x : Session) (p : List Byte) (k : Nat), k = (if x.lbr then 3 else 1) →
    (plan c x p).length = 6 + 2 * blocksOf p.length + (if x.lbr then 2 else 0) ∧
    (plan c x p)[0]? = some (.silence (c.leadMs * x.sampleRate.toNat / 1000)) ∧
    (x.lbr = true → (plan c x p)[1]? = some .pilotTone ∧
      (plan c x p)[2]? = some (.silence (c.pilotGapMs * x.sampleRate.toNat / 1000))) ∧
    (plan c x p)[k]? = some (.modulatedFrame (controlFrame c x.version p)) ∧
    (plan c x p)[k + 1]? = some (.silence (c.ctrlGapMs * x.sampleRate.toNat / 1000)) ∧
    (plan c x p)[k + 2]? = some (.modulatedFrame (controlFrame c x.version p)) ∧
    (plan c x p)[k + 3]? = some (.silence (c.settleMs * x.sampleRate.toNat / 1000)) ∧
    (∀ b, b < blocksOf p.length →
      (plan c x p)[k + 4 + 2 * b]?
        = some (.modulatedFrame (dataFrame c x.version (block p b) (BitVec.ofNat 16 b))) ∧
      (plan c x p)[k + 5 + 2 * b]? = some (.silence (c.dataGapMs * x.sampleRate.toNat / 1000))) ∧
    (plan c x p)[k + 4 + 2 * blocksOf p.length]? = some (.silence (c.leadMs * x.sampleRate.toNat / 1000))

/-- 43_sequencer R177, R188(f): a pilot tone appears in a plan only in low-bitrate mode, and then once. -/
def Obligations.PilotToneOnlyInLowBitrateMode : Prop :=
  ∀ (c : Params) (x : Session) (p : List Byte),
    (plan c x p).count .pilotTone = if x.lbr then 1 else 0

/-- 43_sequencer R187, R178: the number of samples of OUT, for either sample format. -/
def Obligations.OutputLengthFormula : Prop :=
  ∀ (c : Params) (x : Session) (p : List Byte),
    (encodeSamples c x p).length =
      2 * (c.leadMs * x.sampleRate.toNat / 1000)
      + (if x.lbr then c.pilotMs * x.sampleRate.toNat / 1000 + c.pilotGapMs * x.sampleRate.toNat / 1000 else 0)
      + 2 * ⌈(320 : ℚ) * samplesPerBit c x.lbr x.sampleRate⌉₊
      + c.ctrlGapMs * x.sampleRate.toNat / 1000 + c.settleMs * x.sampleRate.toNat / 1000
      + blocksOf p.length
        * (⌈(2176 : ℚ) * samplesPerBit c x.lbr x.sampleRate⌉₊ + c.dataGapMs * x.sampleRate.toNat / 1000)

/-- 43_sequencer R176 to R179: what each segment realises to, a plan segment by segment; and 250 ms of silence at
44100 Hz are 11025 samples of +0.0. -/
def Obligations.SegmentsRealiseToTheirSamples : Prop :=
  ∀ (c : Params) (x : Session),
    (∀ n, realiseSegment c x (.silence n) = List.replicate n 0x00000000#32) ∧
    (realiseSegment c x .pilotTone).length = c.pilotMs * x.sampleRate.toNat / 1000 ∧
    (∀ k, k < c.pilotMs * x.sampleRate.toNat / 1000 →
      (realiseSegment c x .pilotTone)[k]? = some (c.pilotSample k x.sampleRate)) ∧
    (∀ f, realiseSegment c x (.modulatedFrame f) = c.modulate x.lbr x.sampleRate f) ∧
    realise c x [] = [] ∧
    (∀ g, realise c x [g] = realiseSegment c x g) ∧
    (∀ P Q, realise c x (P ++ Q) = realise c x P ++ realise c x Q) ∧
    (x.sampleRate = 44100 → realise c x [.silence (ns x.sampleRate 250)] = List.replicate 11025 0x00000000#32)

/-- 43_sequencer R180: an I16 session quantizes every sample, so that silence converts to zeros; F32 samples are passed
on unchanged. -/
def Obligations.ConversionQuantizesEverySample : Prop :=
  ∀ (c : Params) (n : Nat) (xs : List F32),
    convert c .i16 xs = xs.map (fun x => .i16 (c.quantize x)) ∧
    convert c .f32 xs = xs.map .f32 ∧
    convert c .i16 (List.replicate n 0x00000000#32) = List.replicate n (.i16 0)

/-- 43_sequencer R170: ENCODE writes OUT, OUT_LEN and STATUS, and nothing else: OUT is the converted realisation of the
plan. -/
def Obligations.EncodeWritesTheSampleStream : Prop :=
  ∀ (s : State) (xs : List F32), s.session.valid = true → s.regs.plen.toNat ≤ Config.params.pmemSize →
    xs = realise Config.params s.session (plan Config.params s.session (memRead 0 s.regs.plen.toNat s)) →
    exec .encode s = .next { s with
      out := convert Config.params s.session.sampleFmt xs
      regs.outLen := count64 xs.length
      regs.err := 0x00
      draws := s.draws + 1 }

/-! ## The container -/

/-- 44_external_ports R212, a PCM session: ENCCONT writes COUT, COUT_LEN, MIME_SEL and STATUS, and nothing else. -/
def Obligations.EnccontWritesThePcmContainer : Prop :=
  ∀ (s : State) (xs : List F32), s.session.valid = true → s.regs.plen.toNat ≤ Config.params.pmemSize →
    s.session.container = .pcm →
    xs = realise Config.params s.session (plan Config.params s.session (memRead 0 s.regs.plen.toNat s)) →
    exec .enccont s = .next { s with
      cout := pcmContainer Config.params s.session.sampleRate (xs.map Config.params.quantize)
      regs.coutLen := count64 (44 + 2 * xs.length)
      regs.mimeSel := 1
      regs.err := 0x00
      draws := s.draws + 1 }

/-- 44_external_ports R212, a COMPRESSED session, which must run at 44100 Hz (R211). -/
def Obligations.EnccontWritesTheCompressedContainer : Prop :=
  ∀ (s : State) (xs : List F32), s.session.valid = true → s.regs.plen.toNat ≤ Config.params.pmemSize →
    s.session.container = .compressed → s.session.sampleRate.toNat = 44100 →
    xs = realise Config.params s.session (plan Config.params s.session (memRead 0 s.regs.plen.toNat s)) →
    exec .enccont s = .next { s with
      cout := Config.params.compressEncode xs
      regs.coutLen := count64 (Config.params.compressEncode xs).length
      regs.mimeSel := 2
      regs.err := 0x00
      draws := s.draws + 1 }

/-- 44_external_ports R210, R214: a PCM container's length, its declarations and its samples. The chunk size is declared
for every N < 256^39, the model's choice of a bound (log 7). -/
def Obligations.PcmContainerLaw : Prop :=
  ∀ (c : Params) (R : Word) (q : List I16),
    (pcmContainer c R q).length = 44 + 2 * q.length ∧
    (∃ h : Vector Byte 44, (pcmContainer c R q).take 44 = h.toList ∧
      (q.length < 256 ^ 39 → c.pcmHeader.chunkSize h = 36 + 2 * q.length) ∧
      c.pcmHeader.byteRate h = 2 * R.toNat) ∧
    ∀ k v, q[k]? = some v →
      (pcmContainer c R q)[44 + 2 * k]? = some (BitVec.ofNat 8 v.toNat) ∧
      (pcmContainer c R q)[44 + 2 * k + 1]? = some (BitVec.ofNat 8 (v.toNat / 256))

/-- 44_external_ports R215, R212: a successful ENCCONT produced the configured container of the session's own samples,
and a COMPRESSED one only at 44100 Hz. -/
def Obligations.EnccontNeverSubstitutesAContainer : Prop :=
  ∀ (s t : State) (xs : List F32),
    xs = realise Config.params s.session (plan Config.params s.session (memRead 0 s.regs.plen.toNat s)) →
    exec .enccont s = .next t → t.regs.err = 0x00 →
    (t.regs.mimeSel = 1 ∧ s.session.container = .pcm ∧
      t.cout = pcmContainer Config.params s.session.sampleRate (xs.map Config.params.quantize)) ∨
    (t.regs.mimeSel = 2 ∧ s.session.container = .compressed ∧ s.session.sampleRate.toNat = 44100 ∧
      t.cout = Config.params.compressEncode xs)

/-- 44_external_ports R214, of every successful ENCCONT in a PCM session: the container's length, what
its header declares, whatever the number of samples and the rate, and its samples. -/
def Obligations.SuccessfulEnccontDeclaresItsStream : Prop :=
  ∀ (s t : State) (xs : List F32), s.session.container = .pcm →
    xs = realise Config.params s.session (plan Config.params s.session (memRead 0 s.regs.plen.toNat s)) →
    exec .enccont s = .next t → t.regs.err = 0x00 →
      t.cout.length = 44 + 2 * xs.length ∧
      (∃ h : Vector Byte 44, t.cout.take 44 = h.toList ∧
        Config.params.pcmHeader.chunkSize h = 36 + 2 * xs.length ∧
        Config.params.pcmHeader.byteRate h = 2 * s.session.sampleRate.toNat) ∧
      ∀ k x, xs[k]? = some x →
        t.cout[44 + 2 * k]? = some (BitVec.ofNat 8 (Config.params.quantize x).toNat) ∧
        t.cout[44 + 2 * k + 1]? = some (BitVec.ofNat 8 ((Config.params.quantize x).toNat / 256))

/-! ## Errors -/

/-- 60_exceptions R234, R232, R233: a CMD write reports the first error in the order, with no other effect than the
session's invalidation by a failed CONFIGURE; where none applies it completes with ERR 0x00. -/
def Obligations.CommandsReportTheFirstError : Prop :=
  ∀ (s : State) (w : Word) (rest : List HostAccess), s.hostQueue = .write 0 .word w :: rest →
    (firstError w s ≠ 0x00 →
      step s = .next { s with
        hostQueue := rest
        regs.err := firstError w s
        session.valid := if w.toNat = 1 then false else s.session.valid }) ∧
    (firstError w s = 0x00 → ∃ t, step s = .next t ∧ t.regs.err = 0x00)

/-- 60_exceptions R232. -/
def Obligations.FailedCommandWritesOnlyErr : Prop :=
  ∀ (i : Instr) (s t : State), exec i s = .next t → t.regs.err ≠ 0x00 →
    t = { s with
      regs.err := t.regs.err
      session.valid := if i = .configure then false else s.session.valid }

/-- 60_exceptions R236. -/
def Obligations.NotConfiguredWithoutASession : Prop :=
  ∀ (i : Instr) (s : State), i ≠ .configure → s.session.valid = false →
    exec i s = .next { s with regs.err := 0x05 }

/-! ## Rules about the whole machine -/

/-- 20_memory R50, 60_exceptions R231: no command writes PMEM, a staging or an operand register, or the host's side. -/
def Obligations.CommandsKeepOperandsAndPmem : Prop :=
  ∀ (i : Instr) (s t : State), exec i s = .next t →
    t.pmem = s.pmem ∧ t.hostQueue = s.hostQueue ∧ t.hostReads = s.hostReads ∧
    t.regs = { s.regs with
      err := t.regs.err, flen := t.regs.flen, outLen := t.regs.outLen, coutLen := t.regs.coutLen,
      mimeSel := t.regs.mimeSel }

/-- 10_state R42, 70_reset R267: a changed CFG_* register without CONFIGURE is ignored by every command. -/
def Obligations.StagingRegistersReachOnlyConfigure : Prop :=
  ∀ (i : Instr) (s t : State) (ver : BitVec 8) (lbr : BitVec 1) (rate rep : BitVec 32) (sfmt cfmt : BitVec 8),
    i ≠ .configure → exec i s = .next t →
      exec i { s with
        regs.cfgVersion := ver, regs.cfgLbr := lbr, regs.cfgSampleRate := rate, regs.cfgRepeat := rep,
        regs.cfgSampleFmt := sfmt, regs.cfgContainer := cfmt }
      = .next { t with
        regs.cfgVersion := ver, regs.cfgLbr := lbr, regs.cfgSampleRate := rate, regs.cfgRepeat := rep,
        regs.cfgSampleFmt := sfmt, regs.cfgContainer := cfmt }

/-- 10_state R42, 60_exceptions R243: the session changes only when CONFIGURE runs, and becomes valid only by one that
succeeds: where a CONFIGURE would fail, an invalid session stays invalid. -/
def Obligations.SessionChangesOnlyByConfigure : Prop :=
  ∀ s t : State, step s = .next t →
    (t.session ≠ s.session → ∃ rest, s.hostQueue = .write 0 .word 0x00000001 :: rest) ∧
    (s.session.valid = false → firstError 0x00000001 s ≠ 0x00 → t.session.valid = false)

/-- 20_memory R52 to R54, 44_external_ports R212: FMEM and FLEN change only by MKCTL and MKDATA, OUT and OUT_LEN only
by ENCODE, COUT, COUT_LEN and MIME_SEL only by ENCCONT. -/
def Obligations.ResultsChangeOnlyByTheirCommands : Prop :=
  ∀ s t : State, step s = .next t →
    (t.fmem ≠ s.fmem ∨ t.regs.flen ≠ s.regs.flen →
      ∃ rest, s.hostQueue = .write 0 .word 0x00000002 :: rest ∨ s.hostQueue = .write 0 .word 0x00000003 :: rest) ∧
    (t.out ≠ s.out ∨ t.regs.outLen ≠ s.regs.outLen →
      ∃ rest, s.hostQueue = .write 0 .word 0x00000004 :: rest) ∧
    (t.cout ≠ s.cout ∨ t.regs.coutLen ≠ s.regs.coutLen ∨ t.regs.mimeSel ≠ s.regs.mimeSel →
      ∃ rest, s.hostQueue = .write 0 .word 0x00000005 :: rest)

/-- 20_memory R50, R63: PMEM changes only by a host write into its window. -/
def Obligations.PmemChangesOnlyByHostWrites : Prop :=
  ∀ s t : State, step s = .next t → t.pmem ≠ s.pmem →
    ∃ a w v rest, s.hostQueue = .write a w v :: rest ∧ 0x01000000 ≤ a.toNat ∧
      a.toNat < 0x01000000 + Config.params.pmemSize

/-- 60_exceptions R233, 70_reset R271: STATUS.ERR is written only by CMD writes. -/
def Obligations.ErrChangesOnlyByCmdWrites : Prop :=
  ∀ s t : State, step s = .next t → t.regs.err ≠ s.regs.err →
    ∃ w rest, s.hostQueue = .write 0 .word w :: rest

/-- 43_sequencer R185, 10_state R44: what ENCODE and ENCCONT produce depends only on the session (its repeat count
apart, R27) and the written payload, whatever else the two states hold. -/
def Obligations.EncodingsDependOnlyOnSessionAndPayload : Prop :=
  ∀ (s₁ s₂ t₁ t₂ : State) (rep : Word),
    s₁.session.valid = true → s₂.session = { s₁.session with repeatCount := rep } →
    s₂.regs.plen = s₁.regs.plen → s₁.regs.plen.toNat ≤ Config.params.pmemSize →
    PmemWritten s₁ 0 s₁.regs.plen.toNat →
    (∀ k, k < s₁.regs.plen.toNat → s₂.pmem.get k = s₁.pmem.get k) →
    (exec .encode s₁ = .next t₁ → exec .encode s₂ = .next t₂ →
      t₁.out = t₂.out ∧ t₁.regs.outLen = t₂.regs.outLen) ∧
    (exec .enccont s₁ = .next t₁ → exec .enccont s₂ = .next t₂ → t₁.regs.err = 0x00 →
      t₂.regs.err = 0x00 ∧ t₁.cout = t₂.cout ∧ t₁.regs.coutLen = t₂.regs.coutLen ∧
      t₁.regs.mimeSel = t₂.regs.mimeSel)

/-- 20_memory R63: repeating a successful command with unchanged, written inputs rewrites identical results (the
model's draw number apart, log 3). -/
def Obligations.RepeatedCommandRewritesIdenticalResults : Prop :=
  ∀ (i : Instr) (s t u : State), s.fmem.wf → OperandsWritten i s →
    exec i s = .next t → t.regs.err = 0x00 → exec i t = .next u →
      u = { t with draws := u.draws }

/-! ## Invariants -/

/-- Every step keeps both memories in canonical form (the model's, log 12) and inside their ranges (20_memory R50, R52). -/
def Obligations.StepKeepsMemoryCanonical : Prop :=
  ∀ s t : State, MemoryCanonical s → step s = .next t → MemoryCanonical t

/-- 20_memory R62: "no malformed frame … is ever returned": after every step FLEN is 0 or FMEM[0 : FLEN] holds a frame
a receiver's checks accept. -/
def Obligations.StepKeepsTheFrameBufferLegal : Prop :=
  ∀ s t : State, FrameBufferLegal s → step s = .next t → FrameBufferLegal t

/-- Every step keeps the invariant of the block (whose sample range rests on log 6, whose memory form on log 12). -/
def Obligations.StepKeepsTheInvariant : Prop :=
  ∀ s t : State, Inv s → step s = .next t → Inv t
end

