-- ==== Sys2Proof/Laws/Config.lean ====
section
/-! SUPPORT. The constraints on the PCM header port leave the lengths of the streams open (log 7). -/

namespace Sys2Proof

/-- Whatever the stream lengths `len` of the two bit rates, of each rate and each payload length are, some header port
declares them all: its fortieth byte tells the lengths below 256^39, which stand in its first 39 bytes, from the others,
for which it holds the payload length and the bit rate instead. -/
theorem PcmHeaderPort.exists_for_streams (len : Bool → Word → Nat → Nat) :
    ∃ h : PcmHeaderPort, ∀ lbr R L, L ≤ 2 ^ 24 →
      h.chunkSize (h.bytes (len lbr R L) R) = 36 + 2 * len lbr R L := by
  classical
  -- The first 40 bytes for `N` samples at rate `R`, and how they are read.
  let IsLen (N : Nat) (R : Word) : Prop := ∃ x : Bool × Nat, x.2 ≤ 2 ^ 24 ∧ len x.1 R x.2 = N
  let body (N : Nat) (R : Word) : List Byte :=
    if N < 256 ^ 39 then bytesOfNat 39 N ++ [0]
    else if h : IsLen N R then bytesOfNat 39 (2 * h.choose.2 + h.choose.1.toNat) ++ [1]
    else bytesOfNat 40 0
  let count (b : List Byte) (R : Word) : Nat :=
    if b[39]? = some 1 then len (natOfBytes (b.take 39) % 2 == 1) R (natOfBytes (b.take 39) / 2)
    else natOfBytes (b.take 39)
  have body_length : ∀ N R, (body N R).length = 40 := by
    intro N R
    simp only [body]
    split_ifs <;> simp
  have take_body : ∀ N R, (body N R ++ bytesOfNat 4 R.toNat).take 40 = body N R := fun N R =>
    List.take_left' (body_length N R)
  have drop_body : ∀ N (R : Word), natOfBytes ((body N R ++ bytesOfNat 4 R.toNat).drop 40) = R.toNat := by
    intro N R
    rw [List.drop_left' (body_length N R), natOfBytes_bytesOfNat (lt_of_lt_of_eq R.isLt (by decide))]
  have count_small : ∀ N R, N < 256 ^ 39 → count (body N R) R = N := by
    intro N R h
    have hb : body N R = bytesOfNat 39 N ++ [0] := if_pos h
    simp only [count, hb, List.take_left' (bytesOfNat_length 39 N)]
    rw [if_neg (by rw [List.getElem?_append_right (by simp)]; simp), natOfBytes_bytesOfNat h]
  have count_len : ∀ N R, IsLen N R → count (body N R) R = N := by
    intro N R h
    by_cases hN : N < 256 ^ 39
    · exact count_small N R hN
    · obtain ⟨hL, he⟩ := h.choose_spec
      generalize hx : h.choose = x at hL he
      have hb : body N R = bytesOfNat 39 (2 * x.2 + x.1.toNat) ++ [1] := by
        simp only [body]
        rw [if_neg hN, dif_pos h, hx]
      have hv : 2 * x.2 + x.1.toNat < 256 ^ 39 := by
        have := x.1.toNat_le
        exact lt_of_lt_of_le (show _ < 2 ^ 26 by omega) (by decide)
      simp only [count, hb, List.take_left' (bytesOfNat_length 39 _)]
      rw [if_pos (by rw [List.getElem?_append_right (by simp)]; simp), natOfBytes_bytesOfNat hv, ← he]
      rcases x with ⟨lbr, L⟩
      cases lbr <;> simp [Nat.add_div]
  let port : PcmHeaderPort := {
    bytes := fun N R => ⟨(body N R ++ bytesOfNat 4 R.toNat).toArray, by simp [body_length]⟩
    chunkSize := fun h => 36 + 2 * count (h.toList.take 40) (BitVec.ofNat 32 (natOfBytes (h.toList.drop 40)))
    byteRate := fun h => 2 * natOfBytes (h.toList.drop 40)
    chunkSize_declared := fun N R h => by
      simp only [Vector.toList, take_body, drop_body, BitVec.ofNat_toNat, BitVec.setWidth_eq, count_small N R h]
    byteRate_declared := fun N R => by simp only [Vector.toList, drop_body] }
  refine ⟨port, fun lbr R L hL => ?_⟩
  simp only [port, Vector.toList, take_body, drop_body, BitVec.ofNat_toNat, BitVec.setWidth_eq,
    count_len _ R ⟨(lbr, L), hL, rfl⟩]

end Sys2Proof
end

