-- ==== Sys2Proof/Laws/Memory.lean ====
section
/-! SUPPORT. The laws of the byte memory: read after write, the canonical form, and equal contents are equal data. -/

namespace Sys2Proof.Machine

variable {m : Memory} {a x n : Nat} {b : Byte}

@[simp] theorem Memory.get_nil : Memory.get [] a = none := rfl

theorem Memory.get_cons (k : Nat) (v : Byte) :
    Memory.get ((k, v) :: m) a = if a = k then some v else Memory.get m a := rfl

/-- Reading back after one write. -/
theorem Memory.get_set : (Memory.set m a b).get x = if x = a then some b else m.get x := by
  induction m with
  | nil => simp [Memory.set, Memory.get_cons]
  | cons c m ih =>
    obtain ⟨k, v⟩ := c
    simp only [Memory.set]
    split_ifs with h₁ h₂ <;> simp only [Memory.get_cons, ih] <;> split_ifs <;> first | rfl | omega

@[simp] theorem Memory.get_set_self : (Memory.set m a b).get a = some b := by simp [Memory.get_set]

theorem Memory.get_set_of_ne (h : x ≠ a) : (Memory.set m a b).get x = m.get x := by simp [Memory.get_set, h]

theorem Memory.mem_set {c : Host.Cell} (h : c ∈ Memory.set m a b) : c = (a, b) ∨ c ∈ m := by
  induction m with
  | nil => simpa [Memory.set] using h
  | cons d m ih =>
    obtain ⟨k, v⟩ := d
    simp only [Memory.set] at h
    split_ifs at h with h₁ h₂
    · simpa using h
    · rcases List.mem_cons.1 h with h | h <;> simp [h]
    · rcases List.mem_cons.1 h with h | h
      · simp [h]
      · rcases ih h with h | h <;> simp [h]

theorem Memory.set_below (hm : m.below n) (ha : a < n) : (Memory.set m a b).below n := by
  intro c hc
  rcases Memory.mem_set hc with rfl | hc
  · exact ha
  · exact hm c hc

/-- A write keeps the canonical form. -/
theorem Memory.set_wf (hm : m.wf) : (Memory.set m a b).wf := by
  induction m with
  | nil => simp [Memory.set]
  | cons d m ih =>
    obtain ⟨k, v⟩ := d
    obtain ⟨h, hm'⟩ := List.pairwise_cons.1 hm
    simp only [Memory.set]
    split_ifs with h₁ h₂
    · refine List.pairwise_cons.2 ⟨fun c hc => ?_, List.pairwise_cons.2 ⟨h, hm'⟩⟩
      rcases List.mem_cons.1 hc with rfl | hc
      · exact h₁
      · exact h₁.trans (h c hc)
    · subst h₂
      exact List.pairwise_cons.2 ⟨h, hm'⟩
    · refine List.pairwise_cons.2 ⟨fun c hc => ?_, ih hm'⟩
      rcases Memory.mem_set hc with rfl | hc
      · simp only
        omega
      · exact h c hc

theorem Memory.get_none_of_lt (h : ∀ c ∈ m, a < c.1) : m.get a = none := by
  induction m with
  | nil => rfl
  | cons d m ih =>
    obtain ⟨k, v⟩ := d
    have hk : a < k := h (k, v) (by simp)
    rw [Memory.get_cons, if_neg (by omega), ih fun c hc => h c (by simp [hc])]

/-- Canonical memories with equal contents are equal data. -/
theorem Memory.ext_get {m' : Memory} (h : m.wf) (h' : m'.wf) (hg : ∀ a, m.get a = m'.get a) : m = m' := by
  induction m generalizing m' with
  | nil =>
    cases m' with
    | nil => rfl
    | cons d m' =>
      obtain ⟨k, v⟩ := d
      simpa [Memory.get_cons] using hg k
  | cons c m ih =>
    obtain ⟨k, v⟩ := c
    cases m' with
    | nil => simpa [Memory.get_cons] using hg k
    | cons d m' =>
      obtain ⟨k', v'⟩ := d
      obtain ⟨h₁, h₂⟩ := List.pairwise_cons.1 h
      obtain ⟨h₁', h₂'⟩ := List.pairwise_cons.1 h'
      have hk : k = k' := by
        rcases Nat.lt_trichotomy k k' with hlt | heq | hlt
        · have e := hg k
          rw [Memory.get_cons, if_pos rfl, Memory.get_none_of_lt] at e
          · simp at e
          · intro c hc
            rcases List.mem_cons.1 hc with rfl | hc
            · exact hlt
            · exact hlt.trans (h₁' c hc)
        · exact heq
        · have e := hg k'
          rw [Memory.get_cons k' v', if_pos rfl, Memory.get_none_of_lt] at e
          · simp at e
          · intro c hc
            rcases List.mem_cons.1 hc with rfl | hc
            · exact hlt
            · exact hlt.trans (h₁ c hc)
      subst hk
      have hv : v = v' := by simpa [Memory.get_cons] using hg k
      subst hv
      rw [ih h₂ h₂' fun a => ?_]
      have e := hg a
      rw [Memory.get_cons, Memory.get_cons] at e
      by_cases ha : a = k
      · subst ha
        rw [Memory.get_none_of_lt h₁, Memory.get_none_of_lt h₁']
      · simpa [ha] using e

/-- Reading back after writing a run of bytes. -/
theorem Memory.get_writeBytes {bs : List Byte} :
    (Memory.writeBytes m a bs).get x = if a ≤ x ∧ x < a + bs.length then bs[x - a]? else m.get x := by
  induction bs generalizing m a with
  | nil =>
    simp only [Memory.writeBytes, List.length_nil, Nat.add_zero]
    rw [if_neg (by omega)]
  | cons b bs ih =>
    simp only [Memory.writeBytes, ih, Memory.get_set, List.length_cons]
    by_cases hx : x = a
    · subst hx
      simp
    · by_cases h : a + 1 ≤ x ∧ x < a + 1 + bs.length
      · have e : x - a = (x - (a + 1)) + 1 := by omega
        rw [if_pos h, if_pos (by omega), e, List.getElem?_cons_succ]
      · rw [if_neg h, if_neg hx, if_neg (by omega)]

theorem Memory.writeBytes_wf {bs : List Byte} (hm : m.wf) : (Memory.writeBytes m a bs).wf := by
  induction bs generalizing m a with
  | nil => exact hm
  | cons b bs ih => exact ih (Memory.set_wf hm)

theorem Memory.writeBytes_below {bs : List Byte} (hm : m.below n) (h : a + bs.length ≤ n) :
    (Memory.writeBytes m a bs).below n := by
  induction bs generalizing m a with
  | nil => exact hm
  | cons b bs ih =>
    rw [List.length_cons] at h
    exact ih (Memory.set_below hm (by omega)) (by omega)

/-- Writing the same run of bytes again changes nothing. -/
theorem Memory.writeBytes_writeBytes {bs : List Byte} (hm : m.wf) :
    Memory.writeBytes (Memory.writeBytes m a bs) a bs = Memory.writeBytes m a bs := by
  refine Memory.ext_get (Memory.writeBytes_wf (Memory.writeBytes_wf hm)) (Memory.writeBytes_wf hm) fun x => ?_
  rw [Memory.get_writeBytes (m := Memory.writeBytes m a bs), Memory.get_writeBytes]
  split_ifs <;> rfl

end Sys2Proof.Machine
end

