-- ==== Sys2Proof/Laws/State.lean ====
section
/-! SUPPORT. One lemma per field of State per named update, true by rfl. -/

namespace Sys2Proof.Machine

variable (s : State)

/-! ## raiseError -/

@[simp] theorem raiseError_regs (e : ErrorCode) : (raiseError e s).regs = { s.regs with err := e.code } := rfl
@[simp] theorem raiseError_session (e : ErrorCode) : (raiseError e s).session = s.session := rfl
@[simp] theorem raiseError_pmem (e : ErrorCode) : (raiseError e s).pmem = s.pmem := rfl
@[simp] theorem raiseError_fmem (e : ErrorCode) : (raiseError e s).fmem = s.fmem := rfl
@[simp] theorem raiseError_out (e : ErrorCode) : (raiseError e s).out = s.out := rfl
@[simp] theorem raiseError_cout (e : ErrorCode) : (raiseError e s).cout = s.cout := rfl
@[simp] theorem raiseError_hostQueue (e : ErrorCode) : (raiseError e s).hostQueue = s.hostQueue := rfl
@[simp] theorem raiseError_hostReads (e : ErrorCode) : (raiseError e s).hostReads = s.hostReads := rfl
@[simp] theorem raiseError_draws (e : ErrorCode) : (raiseError e s).draws = s.draws := rfl

/-! ## succeed -/

@[simp] theorem succeed_regs : (succeed s).regs = { s.regs with err := codeOk } := rfl
@[simp] theorem succeed_session : (succeed s).session = s.session := rfl
@[simp] theorem succeed_pmem : (succeed s).pmem = s.pmem := rfl
@[simp] theorem succeed_fmem : (succeed s).fmem = s.fmem := rfl
@[simp] theorem succeed_out : (succeed s).out = s.out := rfl
@[simp] theorem succeed_cout : (succeed s).cout = s.cout := rfl
@[simp] theorem succeed_hostQueue : (succeed s).hostQueue = s.hostQueue := rfl
@[simp] theorem succeed_hostReads : (succeed s).hostReads = s.hostReads := rfl
@[simp] theorem succeed_draws : (succeed s).draws = s.draws := rfl

/-! ## invalidateSession -/

@[simp] theorem invalidateSession_regs : (invalidateSession s).regs = s.regs := rfl
@[simp] theorem invalidateSession_session : (invalidateSession s).session = { s.session with valid := false } := rfl
@[simp] theorem invalidateSession_pmem : (invalidateSession s).pmem = s.pmem := rfl
@[simp] theorem invalidateSession_fmem : (invalidateSession s).fmem = s.fmem := rfl
@[simp] theorem invalidateSession_out : (invalidateSession s).out = s.out := rfl
@[simp] theorem invalidateSession_cout : (invalidateSession s).cout = s.cout := rfl
@[simp] theorem invalidateSession_hostQueue : (invalidateSession s).hostQueue = s.hostQueue := rfl
@[simp] theorem invalidateSession_hostReads : (invalidateSession s).hostReads = s.hostReads := rfl
@[simp] theorem invalidateSession_draws : (invalidateSession s).draws = s.draws := rfl

/-! ## latchSession -/

@[simp] theorem latchSession_regs (x : Session) : (latchSession x s).regs = s.regs := rfl
@[simp] theorem latchSession_session (x : Session) : (latchSession x s).session = x := rfl
@[simp] theorem latchSession_pmem (x : Session) : (latchSession x s).pmem = s.pmem := rfl
@[simp] theorem latchSession_fmem (x : Session) : (latchSession x s).fmem = s.fmem := rfl
@[simp] theorem latchSession_out (x : Session) : (latchSession x s).out = s.out := rfl
@[simp] theorem latchSession_cout (x : Session) : (latchSession x s).cout = s.cout := rfl
@[simp] theorem latchSession_hostQueue (x : Session) : (latchSession x s).hostQueue = s.hostQueue := rfl
@[simp] theorem latchSession_hostReads (x : Session) : (latchSession x s).hostReads = s.hostReads := rfl
@[simp] theorem latchSession_draws (x : Session) : (latchSession x s).draws = s.draws := rfl

/-! ## takeDraw -/

@[simp] theorem takeDraw_regs : (takeDraw s).regs = s.regs := rfl
@[simp] theorem takeDraw_session : (takeDraw s).session = s.session := rfl
@[simp] theorem takeDraw_pmem : (takeDraw s).pmem = s.pmem := rfl
@[simp] theorem takeDraw_fmem : (takeDraw s).fmem = s.fmem := rfl
@[simp] theorem takeDraw_out : (takeDraw s).out = s.out := rfl
@[simp] theorem takeDraw_cout : (takeDraw s).cout = s.cout := rfl
@[simp] theorem takeDraw_hostQueue : (takeDraw s).hostQueue = s.hostQueue := rfl
@[simp] theorem takeDraw_hostReads : (takeDraw s).hostReads = s.hostReads := rfl
@[simp] theorem takeDraw_draws : (takeDraw s).draws = s.draws + 1 := rfl

/-! ## frameWrite -/

@[simp] theorem frameWrite_regs (b : List Byte) : (frameWrite b s).regs = { s.regs with flen := BitVec.ofNat 9 b.length } := rfl
@[simp] theorem frameWrite_session (b : List Byte) : (frameWrite b s).session = s.session := rfl
@[simp] theorem frameWrite_pmem (b : List Byte) : (frameWrite b s).pmem = s.pmem := rfl
@[simp] theorem frameWrite_fmem (b : List Byte) : (frameWrite b s).fmem = s.fmem.writeBytes 0 b := rfl
@[simp] theorem frameWrite_out (b : List Byte) : (frameWrite b s).out = s.out := rfl
@[simp] theorem frameWrite_cout (b : List Byte) : (frameWrite b s).cout = s.cout := rfl
@[simp] theorem frameWrite_hostQueue (b : List Byte) : (frameWrite b s).hostQueue = s.hostQueue := rfl
@[simp] theorem frameWrite_hostReads (b : List Byte) : (frameWrite b s).hostReads = s.hostReads := rfl
@[simp] theorem frameWrite_draws (b : List Byte) : (frameWrite b s).draws = s.draws := rfl

/-! ## outWrite -/

@[simp] theorem outWrite_regs (x : List Sample) : (outWrite x s).regs = { s.regs with outLen := count64 x.length } := rfl
@[simp] theorem outWrite_session (x : List Sample) : (outWrite x s).session = s.session := rfl
@[simp] theorem outWrite_pmem (x : List Sample) : (outWrite x s).pmem = s.pmem := rfl
@[simp] theorem outWrite_fmem (x : List Sample) : (outWrite x s).fmem = s.fmem := rfl
@[simp] theorem outWrite_out (x : List Sample) : (outWrite x s).out = x := rfl
@[simp] theorem outWrite_cout (x : List Sample) : (outWrite x s).cout = s.cout := rfl
@[simp] theorem outWrite_hostQueue (x : List Sample) : (outWrite x s).hostQueue = s.hostQueue := rfl
@[simp] theorem outWrite_hostReads (x : List Sample) : (outWrite x s).hostReads = s.hostReads := rfl
@[simp] theorem outWrite_draws (x : List Sample) : (outWrite x s).draws = s.draws := rfl

/-! ## containerWrite -/

@[simp] theorem containerWrite_regs (b : List Byte) (m : BitVec 2) : (containerWrite b m s).regs = { s.regs with coutLen := count64 b.length, mimeSel := m } := rfl
@[simp] theorem containerWrite_session (b : List Byte) (m : BitVec 2) : (containerWrite b m s).session = s.session := rfl
@[simp] theorem containerWrite_pmem (b : List Byte) (m : BitVec 2) : (containerWrite b m s).pmem = s.pmem := rfl
@[simp] theorem containerWrite_fmem (b : List Byte) (m : BitVec 2) : (containerWrite b m s).fmem = s.fmem := rfl
@[simp] theorem containerWrite_out (b : List Byte) (m : BitVec 2) : (containerWrite b m s).out = s.out := rfl
@[simp] theorem containerWrite_cout (b : List Byte) (m : BitVec 2) : (containerWrite b m s).cout = b := rfl
@[simp] theorem containerWrite_hostQueue (b : List Byte) (m : BitVec 2) : (containerWrite b m s).hostQueue = s.hostQueue := rfl
@[simp] theorem containerWrite_hostReads (b : List Byte) (m : BitVec 2) : (containerWrite b m s).hostReads = s.hostReads := rfl
@[simp] theorem containerWrite_draws (b : List Byte) (m : BitVec 2) : (containerWrite b m s).draws = s.draws := rfl

/-! ## report -/

@[simp] theorem report_regs (v : Word) : (report v s).regs = s.regs := rfl
@[simp] theorem report_session (v : Word) : (report v s).session = s.session := rfl
@[simp] theorem report_pmem (v : Word) : (report v s).pmem = s.pmem := rfl
@[simp] theorem report_fmem (v : Word) : (report v s).fmem = s.fmem := rfl
@[simp] theorem report_out (v : Word) : (report v s).out = s.out := rfl
@[simp] theorem report_cout (v : Word) : (report v s).cout = s.cout := rfl
@[simp] theorem report_hostQueue (v : Word) : (report v s).hostQueue = s.hostQueue := rfl
@[simp] theorem report_hostReads (v : Word) : (report v s).hostReads = v :: s.hostReads := rfl
@[simp] theorem report_draws (v : Word) : (report v s).draws = s.draws := rfl

end Sys2Proof.Machine
end

