-- ==== Sys2Proof/Laws/Ops.lean ====
section
/-! SUPPORT. Byte order, and what the primitives read and write. -/

namespace Sys2Proof.Machine

/-! ## Byte order -/

@[simp] theorem le32_length (v : Word) : (le32 v).length = 4 := rfl

@[simp] theorem le16_length (v : BitVec 16) : (le16 v).length = 2 := rfl

theorem extract_byte {n : Nat} (v : BitVec n) (k : Nat) :
    v.extractLsb' k 8 = BitVec.ofNat 8 (v.toNat / 2 ^ k) := by
  apply BitVec.eq_of_toNat_eq
  simp [BitVec.extractLsb'_toNat, Nat.shiftRight_eq_div_pow]

/-- Byte k of a little-endian word is its bits [8k+7 : 8k] (20_memory R55). -/
theorem le32_get (v : Word) {k : Nat} (h : k < 4) : (le32 v)[k]? = some (BitVec.ofNat 8 (v.toNat / 2 ^ (8 * k))) := by
  rcases k with _ | _ | _ | _ | k <;> first | omega | simp [le32, extract_byte]

theorem le16_get (v : BitVec 16) {k : Nat} (h : k < 2) :
    (le16 v)[k]? = some (BitVec.ofNat 8 (v.toNat / 2 ^ (8 * k))) := by
  rcases k with _ | _ | k <;> first | omega | simp [le16, extract_byte]

/-- `wordOfBytes` reads the number whose bytes, least significant first, are given. -/
theorem wordOfBytes_toNat_cons (b : Byte) (bs : List Byte) (h : bs.length ≤ 3) (hv : (wordOfBytes bs).toNat < 2 ^ (8 * bs.length)) :
    (wordOfBytes (b :: bs)).toNat = b.toNat + 2 ^ 8 * (wordOfBytes bs).toNat := by
  have hp : 2 ^ (8 * bs.length) ≤ 2 ^ 24 := Nat.pow_le_pow_right (by omega) (by omega)
  have hb := b.isLt
  have hs : (wordOfBytes bs <<< 8).toNat = 2 ^ 8 * (wordOfBytes bs).toNat := by
    rw [BitVec.toNat_shiftLeft, Nat.shiftLeft_eq, Nat.mod_eq_of_lt (by omega), Nat.mul_comm]
  have hz : (b.setWidth 32).toNat = b.toNat := by
    rw [BitVec.toNat_setWidth, Nat.mod_eq_of_lt (by omega)]
  rw [wordOfBytes, BitVec.toNat_or, hz, hs, Nat.or_comm, ← Nat.two_pow_add_eq_or_of_lt hb, Nat.add_comm]

theorem wordOfBytes_toNat_lt (bs : List Byte) (h : bs.length ≤ 4) : (wordOfBytes bs).toNat < 2 ^ (8 * bs.length) := by
  induction bs with
  | nil => simp [wordOfBytes]
  | cons b bs ih =>
    rw [List.length_cons] at h
    have ih := ih (by omega)
    rw [wordOfBytes_toNat_cons b bs (by omega) ih, List.length_cons, Nat.mul_succ, Nat.pow_add]
    have hb := b.isLt
    omega

/-! ## Reading -/

/-- The bytes of the word that bytes make are those bytes. -/
theorem wordOfBytes_byte {bs : List Byte} (h : bs.length ≤ 4) {k : Nat} {b : Byte} (hk : bs[k]? = some b) :
    BitVec.ofNat 8 ((wordOfBytes bs).toNat / 2 ^ (8 * k)) = b := by
  induction bs generalizing k with
  | nil => simp at hk
  | cons a bs ih =>
    rw [List.length_cons] at h
    rw [wordOfBytes_toNat_cons a bs (by omega) (wordOfBytes_toNat_lt bs (by omega))]
    have ha := a.isLt
    cases k with
    | zero =>
      obtain rfl : a = b := by simpa using hk
      apply BitVec.eq_of_toNat_eq
      rw [BitVec.toNat_ofNat]
      omega
    | succ k =>
      rw [← ih (by omega) (k := k) (by simpa using hk), show 8 * (k + 1) = 8 + 8 * k by omega, Nat.pow_add,
        ← Nat.div_div_eq_div_mul]
      congr 2
      omega

@[simp] theorem memRead_length (addr n : Nat) (s : State) : (memRead addr n s).length = n := by simp [memRead]

theorem memRead_get (addr n : Nat) (s : State) {k : Nat} (h : k < n) :
    (memRead addr n s)[k]? = some (readPmem s (addr + k)) := by simp [memRead, h]

/-- MemRead of written bytes depends on nothing but those bytes. -/
theorem memRead_congr {addr n : Nat} {s t : State} (hw : PmemWritten s addr n)
    (h : ∀ k, k < n → t.pmem.get (addr + k) = s.pmem.get (addr + k)) : memRead addr n t = memRead addr n s := by
  refine List.map_congr_left fun k hk => ?_
  have hk := List.mem_range.1 hk
  obtain ⟨b, hb⟩ := hw k hk
  simp [readPmem, h k hk, hb]

/-! ## Writing a frame -/

/-- FrameWrite writes exactly FMEM[0 : len(b)] (20_memory R52). -/
theorem frameWrite_get (b : List Byte) (s : State) (a : Nat) :
    (frameWrite b s).fmem.get a = if a < b.length then b[a]? else s.fmem.get a := by
  simp [Memory.get_writeBytes]

end Sys2Proof.Machine
end

