-- ==== Sys2Proof/Laws/Frames.lean ====
section
/-! SUPPORT. The whitening functions byte by byte, and the parts of a frame. -/

namespace Sys2Proof.Machine

variable {hdr dat : List Byte} (c : Params) (v : Version)

/-! ## Whitening -/

@[simp] theorem stripeV1_fst : (stripeV1 hdr dat).1 = hdr := rfl

@[simp] theorem stripeV1_snd_length : (stripeV1 hdr dat).2.length = dat.length := by simp [stripeV1]

@[simp] theorem stripeV2_fst_length : (stripeV2 hdr dat).1.length = hdr.length := by simp [stripeV2]

@[simp] theorem stripeV2_snd_length : (stripeV2 hdr dat).2.length = dat.length := by simp [stripeV2]

@[simp] theorem whiten_fst_length : (whiten v hdr dat).1.length = hdr.length := by cases v <;> simp [whiten]

@[simp] theorem whiten_snd_length : (whiten v hdr dat).2.length = dat.length := by cases v <;> simp [whiten]

/-! ## Frame assembly (41_frame_formatters R123) -/

@[simp] theorem header_length (t b2 b3 : Byte) : (header v t b2 b3).length = 4 := rfl

@[simp] theorem dataHeader_length (idx : BitVec 16) : (dataHeader v idx).length = 4 := rfl

@[simp] theorem footer_length (body : List Byte) : (footer c body).length = 4 := rfl

@[simp] theorem frame_length (body : List Byte) : (frame c body).length = body.length + 12 := by
  simp [frame]
  omega

theorem rpad_length {b : List Byte} {n : Nat} (x : Byte) (h : b.length ≤ n) : (rpad b n x).length = n := by
  simp [rpad]
  omega

theorem rpad_get {b : List Byte} {n i : Nat} (x : Byte) (h : i < n) : (rpad b n x)[i]? = some ((b[i]?).getD x) := by
  rw [rpad, List.getElem?_append]
  split_ifs with hb
  · simp [hb]
  · rw [List.getElem?_eq_none (l := b) (by omega), List.getElem?_replicate, if_pos (by omega), Option.getD_none]

@[simp] theorem controlBody_length (p : List Byte) : (controlBody c v p).length = 28 := by simp [controlBody]

theorem dataBody_length {blk : List Byte} (idx : BitVec 16) (h : blk.length ≤ 256) :
    (dataBody v blk idx).length = 260 := by
  simp [dataBody, blockSize, rpad_length _ h]

theorem controlFrame_length (p : List Byte) : (controlFrame c v p).length = 40 := by simp [controlFrame]

theorem dataFrame_length {blk : List Byte} (idx : BitVec 16) (h : blk.length ≤ 256) :
    (dataFrame c v blk idx).length = 272 := by simp [dataFrame, dataBody_length v idx h]

/-- A frame begins with the preamble. -/
theorem frame_take_preamble (body : List Byte) : (frame c body).take 7 = c.preamble.toList := by
  simp [frame, List.append_assoc]

/-- The bytes after the preamble are the body, the footer and the stop marker. -/
theorem frame_drop_preamble (body : List Byte) : (frame c body).drop 7 = body ++ footer c body ++ [c.stop] := by
  simp [frame, List.append_assoc]

/-- A body byte stands 7 bytes further on in the frame. -/
theorem frame_get_body (body : List Byte) {i : Nat} (h : i < body.length) : (frame c body)[7 + i]? = body[i]? := by
  rw [← List.getElem?_drop, frame_drop_preamble, List.append_assoc, List.getElem?_append_left h]

theorem frame_body (body : List Byte) : ((frame c body).drop 7).take body.length = body := by
  rw [frame_drop_preamble, List.append_assoc, List.take_left]

/-- The footer stands after the body. -/
theorem frame_get_footer (body : List Byte) {k : Nat} (h : k < 4) :
    (frame c body)[7 + body.length + k]? = (footer c body)[k]? := by
  rw [Nat.add_assoc, ← List.getElem?_drop, frame_drop_preamble, List.append_assoc,
    List.getElem?_append_right (by omega), Nat.add_sub_cancel_left, List.getElem?_append_left (by simpa using h)]

/-- The stop marker is last. -/
theorem frame_get_stop (body : List Byte) : (frame c body)[body.length + 11]? = some c.stop := by
  rw [show body.length + 11 = 7 + (body.length + 4) by omega, ← List.getElem?_drop, frame_drop_preamble,
    List.getElem?_append_right (by simp)]
  simp

end Sys2Proof.Machine
end

