-- ==== Sys2Proof/Laws/Sequencer.lean ====
section
/-! SUPPORT. The blocks of a payload, the lengths of plans, realisations and containers. -/

namespace Sys2Proof.Machine

variable (c : Params) (x : Session) (p : List Byte)

theorem blockCount_eq (L : Nat) : blockCount L = (L + 255) / 256 := by
  rw [blockCount, ceilDiv, blockSize, Nat.add_sub_assoc (by omega)]

/-- More than MAX_BLOCKS blocks means more than 2^24 bytes (43_sequencer R170). -/
theorem maxBlocks_lt_blockCount {L : Nat} : maxBlocks < blockCount L ↔ 2 ^ 24 < L := by
  rw [blockCount_eq, maxBlocks]
  omega

theorem block_length (b : Nat) : (block p b).length = min 256 (p.length - 256 * b) := by
  simp [block, blockSize]

theorem block_length_le (b : Nat) : (block p b).length ≤ 256 := by
  rw [block_length]
  omega

@[simp] theorem pilotSegments_length : (pilotSegments c x).length = if x.lbr then 2 else 0 := by
  unfold pilotSegments
  split <;> rfl

@[simp] theorem dataSegments_length : (dataSegments c x p).length = 2 * blockCount p.length := by
  simp [dataSegments, blockSegments, List.length_flatMap]
  omega

theorem realise_append (P Q : List Segment) : realise c x (P ++ Q) = realise c x P ++ realise c x Q := by
  simp [realise]

@[simp] theorem convert_length (fmt : SampleFmt) (xs : List F32) : (convert c fmt xs).length = xs.length := by
  cases fmt <;> simp [convert]

theorem frameSamples_mul (q : PosRat) (R : Word) (n : Nat) :
    q.frameSamples R n = (n * 8 * R.toNat * q.den + (q.num - 1)) / q.num := by
  have := q.num_pos
  rw [PosRat.frameSamples, ceilDiv, Nat.add_sub_assoc (by omega)]

theorem flatMap_le16_length (q : List I16) : (q.flatMap le16).length = 2 * q.length := by
  simp [List.length_flatMap]
  omega

theorem pcmContainer_length (R : Word) (q : List I16) : (pcmContainer c R q).length = 44 + 2 * q.length := by
  simp [pcmContainer]
  omega

/-- A realised plan is as long as `Params.streamSamples` says, the number `Params.pcmHeader_stream` is about. -/
theorem realise_plan_length :
    (realise c x (plan c x p)).length = c.streamSamples x.lbr x.sampleRate p.length := by
  have hd : ∀ n, (realise c x ((List.range n).flatMap (blockSegments c x p))).length =
      n * ((c.bitrate x.lbr).frameSamples x.sampleRate 272 + ns x.sampleRate c.dataGapMs) := by
    intro n
    induction n with
    | zero => simp [realise]
    | succ n ih =>
      rw [List.range_succ, List.flatMap_append, realise_append, List.length_append, ih]
      simp [realise, blockSegments, realiseSegment, c.modulate_length, dataFrame_length _ _ _ (block_length_le p n)]
      ring
  simp only [plan, realise_append, List.length_append, dataSegments, hd]
  simp only [realise, pilotSegments, controlSegments, Params.streamSamples, streamLength]
  split_ifs <;> simp [realiseSegment, c.modulate_length, controlFrame_length, ns, blockCount, blockSize] <;> ring

end Sys2Proof.Machine
end

