-- ==== Sys2Proof/Laws/Exec.lean ====
section
/-! SUPPORT. What each command can do: one inversion lemma per meaning, and one for all of them. -/

namespace Sys2Proof.Machine

variable {s t : State}

/-- CONFIGURE fails, or latches a valid session at a legal rate (40_configure R106, R107). -/
theorem execConfigure_cases (h : execConfigure s = .next t) :
    (∃ e, t = failConfigure e s) ∨
    ∃ x : Session, x.valid = true ∧ x.sampleRate = s.regs.cfgSampleRate ∧
      rateOk Config.params s.regs.cfgSampleRate = true ∧ t = succeed (latchSession x s) := by
  simp only [execConfigure, configureWith] at h
  split_ifs at h with hr
  · exact .inl ⟨_, by simpa using h.symm⟩
  · simp only [Bool.not_eq_false] at hr
    split at h
    · exact .inl ⟨_, by simpa using h.symm⟩
    · split at h
      · exact .inl ⟨_, by simpa using h.symm⟩
      · split at h
        · exact .inl ⟨_, by simpa using h.symm⟩
        · exact .inr ⟨_, rfl, rfl, hr, (Host.Outcome.next.inj h).symm⟩

/-- MKCTL aborts, or writes a Control frame (41_frame_formatters R129). -/
theorem execMkctl_cases (h : execMkctl s = .next t) :
    (∃ e, t = raiseError e s) ∨
    (s.session.valid = true ∧ s.regs.plen.toNat ≤ Config.params.pmemSize ∧
      t = succeed (takeDraw
        (frameWrite (controlFrame Config.params s.session.version (memRead 0 s.regs.plen.toNat s)) s))) := by
  simp only [execMkctl] at h
  split_ifs at h with h₁ h₂
  · exact .inl ⟨_, by simpa using h.symm⟩
  · exact .inl ⟨_, by simpa using h.symm⟩
  · exact .inr ⟨by simpa using h₁, by omega, by simpa using h.symm⟩

/-- MKDATA aborts, or writes a Data frame (41_frame_formatters R130). -/
theorem execMkdata_cases (h : execMkdata s = .next t) :
    (∃ e, t = raiseError e s) ∨
    (s.session.valid = true ∧ s.regs.argLen.toNat ≤ 256 ∧ s.regs.argIdx.toNat ≤ 0xFFFF ∧
      s.regs.argOff.toNat + s.regs.argLen.toNat ≤ Config.params.pmemSize ∧
      t = succeed (takeDraw (frameWrite (dataFrame Config.params s.session.version
        (memRead s.regs.argOff.toNat s.regs.argLen.toNat s) (s.regs.argIdx.setWidth 16)) s))) := by
  simp only [execMkdata] at h
  split_ifs at h with h₁ h₂ h₃ h₄
  · exact .inl ⟨_, by simpa using h.symm⟩
  · exact .inl ⟨_, by simpa using h.symm⟩
  · exact .inl ⟨_, by simpa using h.symm⟩
  · exact .inl ⟨_, by simpa using h.symm⟩
  · have hb : blockSize = 256 := rfl
    exact .inr ⟨by simpa using h₁, by omega, by omega, by omega, by simpa using h.symm⟩

/-- ENCODE aborts, or writes the sample stream (43_sequencer R170). -/
theorem execEncode_cases (h : execEncode s = .next t) :
    (∃ e, t = raiseError e s) ∨
    (s.session.valid = true ∧ s.regs.plen.toNat ≤ Config.params.pmemSize ∧
      t = succeed (takeDraw
        (outWrite (encodeSamples Config.params s.session (memRead 0 s.regs.plen.toNat s)) s))) := by
  simp only [execEncode] at h
  split_ifs at h with h₁ h₂ h₃
  · exact .inl ⟨_, by simpa using h.symm⟩
  · exact .inl ⟨_, by simpa using h.symm⟩
  · exact .inl ⟨_, by simpa using h.symm⟩
  · exact .inr ⟨by simpa using h₁, by omega, by simpa using h.symm⟩

/-- ENCCONT aborts, or writes the configured container, a COMPRESSED one only at 44100 Hz (44_external_ports R212). -/
theorem execEnccont_cases (h : execEnccont s = .next t) :
    (∃ e, t = raiseError e s) ∨
    (s.session.valid = true ∧ s.regs.plen.toNat ≤ Config.params.pmemSize ∧
      (s.session.container = .compressed → s.session.sampleRate = compressedRate) ∧
      t = succeed (takeDraw (containerWrite
        (containerBytes Config.params s.session (memRead 0 s.regs.plen.toNat s))
        (mimeSelOf s.session.container) s))) := by
  simp only [execEnccont] at h
  split_ifs at h with h₁ h₂ h₃ h₄
  · exact .inl ⟨_, by simpa using h.symm⟩
  · exact .inl ⟨_, by simpa using h.symm⟩
  · exact .inl ⟨_, by simpa using h.symm⟩
  · exact .inl ⟨_, by simpa using h.symm⟩
  · exact .inr ⟨by simpa using h₁, by omega, by tauto, by simpa using h.symm⟩

/-- An error code is never 0x00, and is at most 0x07 (60_exceptions R231). -/
theorem code_range (e : ErrorCode) : 1 ≤ e.code.toNat ∧ e.code.toNat ≤ 7 := by cases e <;> decide

theorem code_ne_zero (e : ErrorCode) : e.code ≠ 0#8 := by cases e <;> decide

/-- The rate check is the parameter SAMPLE_RATE_OK. -/
theorem rateOk_eq (c : Params) (R : Word) : rateOk c R = c.sampleRateOk R := by
  unfold rateOk
  split_ifs with h
  · rw [h, c.sampleRateOk_zero]
  · rfl

end Sys2Proof.Machine
end

