-- ==== Sys2Proof/Laws/HostPort.lean ====
section
/-! SUPPORT. The address map in numbers, the form check, and what a step can do. -/

namespace Sys2Proof.Machine

variable {s t : State} {a : Nat} {w : Width}

/-! ## The address map -/

theorem inRegisters_iff : inRegisters a = true ↔ a < 0x1000 := by
  unfold inRegisters regionOf fmemBase fmemSize pmemBase
  split_ifs <;> simp <;> omega

theorem inMemory_iff : inMemory a = true ↔
    (0x1000 ≤ a ∧ a < 0x1110) ∨ (0x01000000 ≤ a ∧ a < 0x01000000 + Config.params.pmemSize) := by
  unfold inMemory regionOf fmemBase fmemSize pmemBase
  split_ifs <;> simp <;> omega

theorem regionOf_registers (h : a < 0x1000) : regionOf a = .registers a := by
  unfold regionOf fmemBase
  rw [if_pos h]

theorem regionOf_fmem {off : Nat} (h : off < 272) : regionOf (0x1000 + off) = .fmem off := by
  unfold regionOf fmemBase fmemSize
  rw [if_neg (by omega), if_pos (by omega), Nat.add_sub_cancel_left]

theorem regionOf_pmem {off : Nat} (h : off < Config.params.pmemSize) : regionOf (0x01000000 + off) = .pmem off := by
  unfold regionOf fmemBase fmemSize pmemBase
  rw [if_neg (by omega), if_neg (by omega), if_neg (by omega), if_pos (by omega), Nat.add_sub_cancel_left]

theorem regionOf_reserved (h : 0x1110 ≤ a) (h' : a < 0x01000000 ∨ 0x01000000 + Config.params.pmemSize ≤ a) :
    regionOf a = .reserved := by
  have := Config.params.pmemSize_min
  unfold regionOf fmemBase fmemSize pmemBase
  split_ifs <;> first | rfl | omega

/-- Outside the register window no address is a register's. -/
theorem regionOf_ne_registers (h : 0x1000 ≤ a) (off : Nat) : regionOf a ≠ .registers off := by
  unfold regionOf fmemBase fmemSize pmemBase
  split_ifs <;> simp
  omega

theorem regionOf_eq_pmem {off : Nat} (h : regionOf a = .pmem off) :
    a = 0x01000000 + off ∧ off < Config.params.pmemSize := by
  unfold regionOf fmemBase fmemSize pmemBase at h
  split_ifs at h
  all_goals simp at h
  omega

/-! ## The form check -/

theorem touched_any (f : Nat → Bool) : (touched a w).any f = true ↔ ∃ k, k < w.bytes ∧ f (a + k) = true := by
  simp [touched]

theorem width_bytes_pos (w : Width) : 0 < w.bytes := by cases w <;> decide

theorem touches_registers_iff : (touched a w).any inRegisters = true ↔ a < 0x1000 := by
  rw [touched_any]
  simp only [inRegisters_iff]
  exact ⟨fun ⟨k, _, h⟩ => by omega, fun h => ⟨0, width_bytes_pos w, by omega⟩⟩

/-- In the register window only an aligned word passes (20_memory R56). -/
theorem accessRefusal_of_lt (ha : a < 0x1000) :
    accessRefusal a w = if w = .word ∧ a % 4 = 0 then none else some .registerAccessForm := by
  unfold accessRefusal
  rw [if_pos (touches_registers_iff.2 ha)]

/-- Outside the register window the check refuses exactly the illegal forms (20_memory R56, R57). -/
theorem accessRefusal_of_ge (ha : 0x1000 ≤ a) :
    (FormLegal a w.bytes → accessRefusal a w = none) ∧
    (¬ FormLegal a w.bytes → accessRefusal a w = some .misalignedMemoryAccess) := by
  have hf : FormLegal a w.bytes ↔ ((touched a w).any inMemory = true → a % w.bytes = 0) := by
    rw [touched_any]
    simp only [inMemory_iff]
    exact ⟨fun h => h.2, fun h => ⟨fun h' => by omega, h⟩⟩
  unfold accessRefusal
  rw [if_neg fun h => by have := touches_registers_iff.1 h; omega, hf]
  by_cases hm : (touched a w).any inMemory = true <;> simp [hm]

theorem formLegal_iff_of_lt (h : a < 0x1000) : FormLegal a w.bytes ↔ w = .word ∧ a % 4 = 0 := by
  constructor
  · intro hf
    obtain ⟨h4, h0⟩ := hf.1 h
    exact ⟨by cases w <;> simp [Width.bytes] at h4 ⊢, h0⟩
  · rintro ⟨rfl, h0⟩
    exact ⟨fun _ => ⟨rfl, h0⟩, fun _ => h0⟩

theorem accessRefusal_none_iff : accessRefusal a w = none ↔ FormLegal a w.bytes := by
  by_cases ha : a < 0x1000
  · rw [accessRefusal_of_lt ha, formLegal_iff_of_lt ha]
    split_ifs with h <;> simp [h]
  · obtain ⟨h₁, h₂⟩ := accessRefusal_of_ge (w := w) (Nat.le_of_not_lt ha)
    by_cases h : FormLegal a w.bytes
    · simp [h₁ h, h]
    · simp [h₂ h, h]

theorem accessRefusal_word (h : a < 0x1000) (h' : a % 4 = 0) : accessRefusal a .word = none :=
  accessRefusal_none_iff.2 ((formLegal_iff_of_lt h).2 ⟨rfl, h'⟩)

/-! ## Reads and writes -/

/-- A read adds one value to what the host has read and changes nothing else but the draw number (20_memory R63). -/
theorem hostRead_eq (a : Nat) (w : Width) (s : State) :
    ∃ v d, hostRead a w s = { s with hostReads := v :: s.hostReads, draws := d } := by
  unfold hostRead
  split
  · exact ⟨_, s.draws, rfl⟩
  all_goals exact ⟨_, s.draws + 1, rfl⟩

theorem writeHostByte_eq (a : Nat) (b : Byte) (s : State) :
    ∃ m, writeHostByte a b s = { s with pmem := m } := by
  unfold writeHostByte
  split
  · exact ⟨_, rfl⟩
  all_goals exact ⟨s.pmem, rfl⟩

theorem writeHostBytes_eq (a : Nat) (bs : List Byte) (s : State) :
    ∃ m, writeHostBytes a bs s = { s with pmem := m } := by
  induction bs generalizing a s with
  | nil => exact ⟨s.pmem, rfl⟩
  | cons b bs ih =>
    obtain ⟨m, hm⟩ := writeHostByte_eq a b s
    obtain ⟨m', hm'⟩ := ih (a + 1) (writeHostByte a b s)
    exact ⟨m', by rw [writeHostBytes, hm', hm]⟩

/-- What keeps a memory canonical byte by byte keeps it over a whole write. -/
theorem writeHostBytes_canonical {bs : List Byte} (h : MemoryCanonical s) :
    MemoryCanonical (writeHostBytes a bs s) := by
  induction bs generalizing a s with
  | nil => exact h
  | cons b bs ih =>
    refine ih ?_
    unfold writeHostByte
    split
    · rename_i off e
      exact ⟨Memory.set_wf h.pmem_wf, Memory.set_below h.pmem_below (regionOf_eq_pmem e).2, h.fmem_wf, h.fmem_below⟩
    all_goals exact h

/-- A register write changes staging and operand registers only. -/
theorem writeReg_eq (r : Reg) (v : Word) (s : State) : ∃ g : Registers, writeReg r v s = { s with regs := g } ∧
    g.err = s.regs.err ∧ g.flen = s.regs.flen ∧ g.outLen = s.regs.outLen ∧ g.coutLen = s.regs.coutLen ∧
    g.mimeSel = s.regs.mimeSel := by
  cases r <;> exact ⟨_, rfl, rfl, rfl, rfl, rfl, rfl⟩

theorem writeWindow_eq (off : Nat) (v : Word) (s : State) : ∃ g : Registers, writeWindow off v s = { s with regs := g } ∧
    g.err = s.regs.err ∧ g.flen = s.regs.flen ∧ g.outLen = s.regs.outLen ∧ g.coutLen = s.regs.coutLen ∧
    g.mimeSel = s.regs.mimeSel := by
  unfold writeWindow
  split
  · exact writeReg_eq _ _ _
  · exact ⟨s.regs, rfl, rfl, rfl, rfl, rfl, rfl⟩

/-- What a host write outside CMD can do: staging and operand registers, or PMEM (20_memory R63). -/
theorem hostWrite_cases (a : Nat) (w : Width) (v : Word) (s : State) :
    (a < 0x1000 ∧ ∃ g : Registers, hostWrite a w v s = { s with regs := g } ∧
      g.err = s.regs.err ∧ g.flen = s.regs.flen ∧ g.outLen = s.regs.outLen ∧ g.coutLen = s.regs.coutLen ∧
      g.mimeSel = s.regs.mimeSel) ∨
    (0x1000 ≤ a ∧ hostWrite a w v s = writeHostBytes a (writtenBytes w v) s) := by
  by_cases h : a < 0x1000
  · left
    refine ⟨h, ?_⟩
    unfold hostWrite
    rw [regionOf_registers h]
    exact writeWindow_eq a v s
  · right
    refine ⟨by omega, ?_⟩
    unfold hostWrite
    split
    · rename_i off e
      exact absurd e (regionOf_ne_registers (by omega) off)
    all_goals rfl

/-! ## The step -/

/-- What a step that answers a next state did. -/
theorem step_cases (h : step s = .next t) :
    (s.hostQueue = [] ∧ t = s) ∨
    (∃ addr w rest, s.hostQueue = .read addr w :: rest ∧ FormLegal addr.toNat w.bytes ∧
      t = hostRead addr.toNat w { s with hostQueue := rest }) ∨
    (∃ v rest, s.hostQueue = .write 0 .word v :: rest ∧ runCommand v { s with hostQueue := rest } = .next t) ∨
    (∃ addr w v rest, s.hostQueue = .write addr w v :: rest ∧ addr.toNat ≠ 0 ∧ FormLegal addr.toNat w.bytes ∧
      t = hostWrite addr.toNat w v { s with hostQueue := rest }) := by
  unfold step nextAccess at h
  split at h
  · rename_i hq
    exact .inl ⟨hq, by simpa using h.symm⟩
  · rename_i acc rest hq
    unfold hostAccess at h
    split at h
    · rename_i addr w
      split at h
      · simp at h
      · rename_i hr
        exact .inr (.inl ⟨addr, w, rest, hq, accessRefusal_none_iff.1 hr, by simpa using h.symm⟩)
    · rename_i addr w v
      split at h
      · simp at h
      · rename_i hr
        have hf := accessRefusal_none_iff.1 hr
        split_ifs at h with h0
        · have h0 : addr.toNat = 0 := h0
          have ha : addr = 0 := BitVec.eq_of_toNat_eq (by simpa using h0)
          have hw := ((formLegal_iff_of_lt (by omega)).1 hf).1
          exact .inr (.inr (.inl ⟨v, rest, by rw [hq, ha, hw], h⟩))
        · exact .inr (.inr (.inr ⟨addr, w, v, rest, hq, h0, hf, by simpa using h.symm⟩))

/-- What a CMD write did: ran a command, or reported an illegal one. -/
theorem runCommand_cases {v : Word} (h : runCommand v s = .next t) :
    (∃ i, decodeWord v = .ok i ∧ exec i s = .next t) ∨ t = illegalCommand s := by
  unfold runCommand at h
  split at h
  · rename_i i hi
    exact .inl ⟨i, hi, h⟩
  · exact .inr (by simpa using h.symm)

/-- A CMD write runs its word. -/
theorem step_cmdWrite {v : Word} {rest : List HostAccess} (h : s.hostQueue = .write 0 .word v :: rest) :
    step s = runCommand v { s with hostQueue := rest } := by
  simp only [step, nextAccess, h, hostAccess]
  rw [show (0 : Word).toNat = 0 from rfl, accessRefusal_word (by decide) (by decide)]
  simp [regOffset]

/-- A legal read is performed. -/
theorem step_read {addr : Word} {rest : List HostAccess} (h : s.hostQueue = .read addr w :: rest)
    (hf : FormLegal addr.toNat w.bytes) : step s = .next (hostRead addr.toNat w { s with hostQueue := rest }) := by
  simp only [step, nextAccess, h, hostAccess, accessRefusal_none_iff.2 hf]

/-- A legal write outside CMD is performed. -/
theorem step_write {addr v : Word} {rest : List HostAccess} (h : s.hostQueue = .write addr w v :: rest)
    (hf : FormLegal addr.toNat w.bytes) (h0 : addr.toNat ≠ 0) :
    step s = .next (hostWrite addr.toNat w v { s with hostQueue := rest }) := by
  simp only [step, nextAccess, h, hostAccess, accessRefusal_none_iff.2 hf]
  rw [if_neg (show addr.toNat ≠ regOffset .cmd from h0)]

end Sys2Proof.Machine
end

