-- ==== Sys2Proof/Laws/PerInstr.lean ====
section
/-! SUPPORT. The families of LAWS.json: one lemma per command. -/

namespace Sys2Proof.Laws.EncodeRoundTrip

open Sys2Proof

/-- A command's word is read back as the command, its RSV bits are zero, and its OP is its own (30_encoding R82, R83). -/
def Statement (i : Instr) : Prop :=
  decodeWord (encode i) = .ok i ∧ rsvField (encode i) = 0 ∧ opcodeMap (opField (encode i)) = some i ∧
    wordWf (encode i) = i.wf

theorem configure : Statement .configure := by unfold Statement; decide

theorem mkctl : Statement .mkctl := by unfold Statement; decide

theorem mkdata : Statement .mkdata := by unfold Statement; decide

theorem encode : Statement .encode := by unfold Statement; decide

theorem enccont : Statement .enccont := by unfold Statement; decide

end Sys2Proof.Laws.EncodeRoundTrip
end

