-- ==== Sys2Proof/Tests/Slice0.lean ====
section
/-! SUPPORT. Tests with results from the spec's tables (95_test_vectors, ids in the comments) and ill-formed terms the
checks refuse. Vectors.lean has the frames and plans, Witnesses.lean the witnesses of the obligations. -/

namespace Sys2Proof.Tests

open Sys2Proof Sys2Proof.Machine

/-! ## Helpers -/

/-- A valid session at 44100 Hz. -/
def session (v : Version) (f : SampleFmt) (k : Container) : Session where
  valid := true
  version := v
  lbr := false
  sampleRate := 44100
  repeatCount := 3
  sampleFmt := f
  container := k

/-- Reset with a valid session, `p` written to PMEM and PLEN set to its length. -/
def configured (v : Version) (f : SampleFmt) (k : Container) (p : List Byte) : State :=
  { State.reset with
    session := session v f k
    pmem := Memory.writeBytes [] 0 p
    regs.plen := BitVec.ofNat 32 p.length }

theorem configured_plen (v : Version) (f : SampleFmt) (k : Container) {p : List Byte} (h : p.length ≤ 256) :
    (configured v f k p).regs.plen.toNat = p.length := by
  show (BitVec.ofNat 32 p.length).toNat = _
  rw [BitVec.toNat_ofNat]
  omega

theorem configured_fits (v : Version) (f : SampleFmt) (k : Container) {p : List Byte} (h : p.length ≤ 256) :
    (configured v f k p).regs.plen.toNat ≤ Config.params.pmemSize := by
  rw [configured_plen v f k h]
  exact h.trans Config.params.pmemSize_min

/-- The state with these accesses pending. -/
def pending (q : List HostAccess) (s : State) : State := { s with hostQueue := q }

/-- The state after a step, the same one where there is none. -/
def afterStep (s : State) : State := match step s with | .next t => t | .fault _ => s | .refused _ => s

/-- The refusal a step ends in. -/
def refusal (s : State) : Option Refusal := match step s with | .refused r => some r | .next _ => none | .fault _ => none

/-- Ten bytes 0x41. -/
def tenA : List Byte := List.replicate 10 0x41

/-- The bytes 00, 01, … FF. -/
def ramp : List Byte := (List.range 256).map fun n => BitVec.ofNat 8 n

theorem ramp_length : ramp.length = 256 := by simp [ramp]

/-! ## Decoding -/

theorem test_decode_configure : decodeWord 0b00000000000000000000000000000001#32 = .ok .configure := by decide
theorem test_decode_mkctl : decodeWord 0b00000000000000000000000000000010#32 = .ok .mkctl := by decide
theorem test_decode_mkdata : decodeWord 0b00000000000000000000000000000011#32 = .ok .mkdata := by decide
theorem test_decode_encode : decodeWord 0b00000000000000000000000000000100#32 = .ok .encode := by decide
theorem test_decode_enccont : decodeWord 0b00000000000000000000000000000101#32 = .ok .enccont := by decide

/-- I-1 to I-4, and both ends of the reserved range. -/
theorem test_illegal_words :
    decodeWord 0x00000000 = .error .reservedOpcode ∧ decodeWord 0x00000006 = .error .reservedOpcode ∧
    decodeWord 0x000000FF = .error .reservedOpcode ∧ decodeWord 0x000001FF = .error .reservedBitsSet ∧
    decodeWord 0x00000102 = .error .reservedBitsSet ∧ decodeWord 0x80000001 = .error .reservedBitsSet := by decide

theorem test_table_word : decodeTableWord 32 3 = some .mkdata ∧ decodeTableWord 8 5 = some .enccont ∧
    decodeTableWord 32 0x103 = none ∧ decodeTableWord 64 3 = none := by decide

/-! ## Well-formedness: ill-formed terms are refused -/

theorem test_wf_words : wordWf 0x00000000 = false ∧ wordWf 0x00000006 = false ∧ wordWf 0x00000102 = false ∧
    wordWf 0x00000005 = true := by decide

theorem test_wf_pmem_offset : HostOp.wf (.wb (2 ^ 24) 0) = false ∧ HostOp.wf (.rb (2 ^ 24)) = false ∧
    HostOp.wf (.wb 255 0) = true := by
  have h₁ := Config.params.pmemSize_min
  have h₂ := Config.params.pmemSize_max
  simp only [HostOp.wf, decide_eq_false_iff_not, decide_eq_true_eq]
  omega

theorem test_wf_fmem_offset : HostOp.wf (.rf 272) = false ∧ HostOp.wf (.rf 271) = true := by decide

theorem test_wf_payload (p : List Byte) (h : p.length = 2 ^ 24 + 1) : HostOp.wf (.payload p) = false := by
  have h₂ := Config.params.pmemSize_max
  simp only [HostOp.wf, decide_eq_false_iff_not]
  omega

/-- I-9. -/
theorem test_refused_forms :
    refusal (pending [.read 0x00000004 .half] State.reset) = some .registerAccessForm ∧
    refusal (pending [.write 0x00000002 .word 1] State.reset) = some .registerAccessForm ∧
    refusal (pending [.read 0x00001001 .half] State.reset) = some .misalignedMemoryAccess := by decide

theorem test_refused_pmem_form : step (pending [.read 0x01000002 .word] State.reset) = .refused .misalignedMemoryAccess := by
  have h : accessRefusal 0x01000002 .word = some .misalignedMemoryAccess := by
    have h₁ := Config.params.pmemSize_min
    refine (accessRefusal_of_ge (by decide)).2 fun hf => ?_
    exact absurd (hf.2 ⟨0, by decide, by omega⟩) (by decide)
  simp only [step, nextAccess, pending, hostAccess]
  simp [h]

/-! ## Host programs (30_encoding R86, 95_test_vectors P1, P2) -/

/-- P1's CONFIG line. -/
theorem test_expand_config : expandOp (.config 1 0 44100 3 0 0) =
    [.write 0x008 .word 1, .write 0x00C .word 0, .write 0x010 .word 0xAC44, .write 0x014 .word 3,
     .write 0x018 .word 0, .write 0x01C .word 0, .write 0x000 .word 1] := by decide

/-- P2's DATAARGS line, and RD, RF, RB, WB and PAYLOAD lines of P1 and R86. -/
theorem test_expand_lines : expandProgram [.dataArgs 0 10 0x1234, .rd .status, .rf 15, .rb 1, .payload [0x41, 0x42]] =
    [.write 0x024 .word 0, .write 0x028 .word 10, .write 0x02C .word 0x1234, .read 0x004 .word, .read 0x100F .byte,
     .read 0x01000001 .byte, .write 0x01000000 .byte 0x41, .write 0x01000001 .byte 0x42, .write 0x020 .word 2] := by
  decide

/-! ## Registers and errors -/

/-- C-9: CFG_VERSION keeps 8 bits. C-12: CFG_LBR keeps one. -/
theorem test_used_bits :
    readReg .cfgVersion (afterStep (pending [.write 0x008 .word 0x102] State.reset)) = 2 ∧
    readReg .cfgLbr (afterStep (pending [.write 0x00C .word 0xFFFFFFFE] State.reset)) = 0 := by decide

/-- I-5 to I-7. -/
theorem test_status_read_only :
    afterStep (pending [.write 0x004 .word 0xFFFFFFFF] State.reset) = State.reset ∧
    (afterStep (pending [.read 0x048 .word] State.reset)).hostReads = [0] ∧
    (afterStep (pending [.read 0x000 .word] State.reset)).hostReads = [0] := by decide

/-- I-8. -/
theorem test_fmem_write_ignored : afterStep (pending [.write 0x1000 .byte 0x41] State.reset) = State.reset := by decide

/-- I-4: ERR 0x06, the session kept (P3). -/
theorem test_illegal_command : readReg .status
    (afterStep (pending [.write 0x000 .word 0x106] (configured .v2 .f32 .pcm []))) = 0x106 := by decide

/-- C-1. -/
theorem test_configure_at_reset :
    readReg .status (afterStep (pending [.write 0x000 .word 1] State.reset)) = 0x004 := by decide

/-- The staging registers with these codes. -/
def staged (rate ver lbr rep sfmt cfmt : Word) : State :=
  [(Reg.cfgSampleRate, rate), (.cfgVersion, ver), (.cfgLbr, lbr), (.cfgRepeat, rep), (.cfgSampleFmt, sfmt),
    (.cfgContainer, cfmt)].foldl (fun s x => writeReg x.1 x.2 s) State.reset

/-- The gaps and bit rates of 95_test_vectors 2.6; only these two sample rates are legal. -/
def tones : Params where
  leadMs := 250
  ctrlGapMs := 50
  settleMs := 200
  dataGapMs := 20
  pilotMs := 500
  pilotGapMs := 100
  settle_longer := by decide
  bitrate := fun lbr => if lbr then { num := 2205 } else { num := 8820 }
  sampleRateOk := fun R => R == 44100 || R == 48000
  sampleRateOk_zero := by decide
  sampleRateOk_bitrate := by
    intro R h lbr
    simp only [Bool.or_eq_true, beq_iff_eq] at h
    rcases h with rfl | rfl <;> cases lbr <;> (unfold PosRat.leRate; decide)

/-- C-2. -/
theorem test_configure_latches :
    configureWith tones (staged 44100 2 0 3 1 0) =
      .next { staged 44100 2 0 3 1 0 with
        session := { valid := true, version := .v2, lbr := false, sampleRate := 44100, repeatCount := 3,
                     sampleFmt := .i16, container := .pcm } } := rfl

/-- C-8: the version before the format. -/
theorem test_configure_version_first :
    configureWith tones (staged 44100 3 0 3 2 0) = .next { staged 44100 3 0 3 2 0 with regs.err := 0x01 } := rfl

/-- K-1, M-1, E-14. -/
theorem test_not_configured :
    readReg .status (afterStep (pending [.write 0x000 .word 2] State.reset)) = 0x005 ∧
    readReg .status (afterStep (pending [.write 0x000 .word 3] State.reset)) = 0x005 ∧
    readReg .status (afterStep (pending [.write 0x000 .word 4] State.reset)) = 0x005 := by decide

/-- M-2, M-3. -/
theorem test_mkdata_too_large :
    readReg .status (afterStep (pending [.write 0x000 .word 3]
      { configured .v1 .f32 .pcm [] with regs.argLen := 257 })) = 0x102 ∧
    readReg .status (afterStep (pending [.write 0x000 .word 3]
      { configured .v1 .f32 .pcm [] with regs.argLen := 10, regs.argIdx := 0x10000 })) = 0x102 := by decide

/-- M-7: off + len without wrap-around. -/
theorem test_mkdata_no_wrap :
    exec .mkdata { configured .v1 .f32 .pcm [] with regs.argOff := 0xFFFFFFFF, regs.argLen := 1 } =
      .next { configured .v1 .f32 .pcm [] with regs.argOff := 0xFFFFFFFF, regs.argLen := 1, regs.err := 0x07 } := by
  have h := Config.params.pmemSize_max
  simp only [exec, execMkdata]
  rw [if_neg (by decide), if_neg (by decide), if_neg (by decide),
    if_pos (show (0xFFFFFFFF : BitVec 32).toNat + (1 : BitVec 32).toNat > Config.params.pmemSize by
      change 0xFFFFFFFF + 1 > _; omega)]
  rfl

/-- E-12. -/
theorem test_encode_too_large :
    readReg .status (afterStep (pending [.write 0x000 .word 4]
      { configured .v1 .f32 .pcm [] with regs.plen := 0x01000001 })) = 0x102 := by decide

/-- X-4, for the empty payload. -/
theorem test_enccont_rate :
    exec .enccont { configured .v1 .f32 .compressed [] with session.sampleRate := 48000 } =
      .next { configured .v1 .f32 .compressed [] with session.sampleRate := 48000, regs.err := 0x03 } := by
  simp only [exec, execEnccont]
  rw [if_neg (by decide), if_neg (by decide), if_neg (Nat.not_lt.2 (configured_fits _ _ _ (Nat.zero_le _))), if_pos (by decide)]
  rfl

end Sys2Proof.Tests
end

