-- ==== Sys2Proof/Tests/Vectors.lean ====
section
/-! SUPPORT. Headers, whitening, frames and plans, with results from 95_test_vectors (ids in the comments). -/

namespace Sys2Proof.Tests

open Sys2Proof Sys2Proof.Machine

/-! ## Headers and whitening -/

/-- H-1, H-2: a Control header is not whitened. -/
theorem test_control_header :
    header .v1 typeControl 0 0 = [0x01, 0x01, 0x00, 0x00] ∧ header .v2 typeControl 0 0 = [0x02, 0x01, 0x00, 0x00] := by
  decide

/-- H-4, H-6, H-7, H-8. -/
theorem test_data_header :
    (dataBody .v1 [] 0x1234).take 4 = [0x01, 0x02, 0x34, 0x12] ∧ (dataBody .v2 [] 0x1234).take 4 = [0x02, 0x02, 0xA1, 0x27] ∧
    (dataBody .v2 [] 0xFFFF).take 4 = [0x02, 0x02, 0x6A, 0xCA] ∧ (dataBody .v2 [] 0x0001).take 4 = [0x02, 0x02, 0x94, 0x35] := by
  decide

/-- H-10. -/
theorem test_length_field : le32 0x00010203 = [0x03, 0x02, 0x01, 0x00] := by decide

/-- W-6. -/
theorem test_whiten_v1 :
    (stripeV1 [0x01, 0x02, 0x34, 0x12] ramp).1 = [0x01, 0x02, 0x34, 0x12] ∧
    [3, 11, 19, 27, 243, 251, 4].map (fun i => (stripeV1 [0x01, 0x02, 0x34, 0x12] ramp).2[i]?) =
      [some 0x56, some 0xA1, some 0x46, some 0xB1, some 0xA6, some 0x51, some 0x04] := by decide +kernel

/-- W-7, W-9. -/
theorem test_whiten_v2 :
    (stripeV2 [0x02, 0x02, 0x34, 0x12] ramp).1 = [0x02, 0x02, 0xA1, 0x27] ∧
    (stripeV2 [0x02, 0x02, 0x34, 0x12] ramp).2.take 8 = [0xAC, 0x94, 0x37, 0xAF, 0x91, 0x30, 0xAA, 0x92] ∧
    (stripeV2 [0x02, 0x02, 0x34, 0x12] ramp).2.drop 252 = [0x50, 0x68, 0xCB, 0x53] := by decide +kernel

/-! ## Frames, under the spec's suggested instantiation (93_implementation_defined G1 to G4) -/

/-- The word steps of the hash of G1. -/
def mixWord (k : Word) : Word := (k * 0xCC9E2D51).rotateLeft 15 * 0x1B873593

/-- The hash of G1, from running value `h`. -/
def hashG1From (h : Word) : List Byte → Word
  | a :: b :: c :: d :: rest => hashG1From ((h ^^^ mixWord (wordOfBytes [a, b, c, d])).rotateLeft 13 * 5 + 0xE6546B64) rest
  | tail => h ^^^ mixWord (wordOfBytes tail)

/-- The hash of G1. -/
def hashG1 (d : List Byte) (seed : Word) : Word :=
  let h₀ := hashG1From seed d ^^^ BitVec.ofNat 32 d.length
  let h₁ := (h₀ ^^^ (h₀ >>> 16)) * 0x85EBCA6B
  let h₂ := (h₁ ^^^ (h₁ >>> 13)) * 0xC2B2AE35
  h₂ ^^^ (h₂ >>> 16)

/-- G1's check values for "21 43 65 87", "21 43 65" and "21". -/
theorem test_hashG1 : hashG1 [0x21, 0x43, 0x65, 0x87] 0 = 0xF55B516B ∧ hashG1 [0x21, 0x43, 0x65] 0 = 0x7E4A8634 ∧
    hashG1 [0x21] 0 = 0x72661CF4 := by decide

/-- G1, G4, and G2's check value for ten bytes 0x41 (the only payload digested below). -/
def suggested : Params where
  preamble := #v[0x00, 0x00, 0x00, 0x00, 0xAA, 0x55, 0x42]
  stop := 0xFF
  hash32 := hashG1
  digest128 := fun _ => #v[0x16, 0xc5, 0x2c, 0x6e, 0x83, 0x26, 0xc0, 0x71, 0xda, 0x77, 0x1e, 0x66, 0xdc, 0x6e, 0x9e, 0x57]

/-- T2. -/
theorem test_frame_T2 : controlFrame suggested .v1 tenA =
    [0x00, 0x00, 0x00, 0x00, 0xaa, 0x55, 0x42, 0x01, 0x01, 0x00, 0x00, 0x0a, 0x00, 0x00, 0x00, 0xdc,
     0x53, 0x17, 0x8f, 0x16, 0xc5, 0x2c, 0x6e, 0x83, 0x26, 0xc0, 0x71, 0xda, 0x77, 0x1e, 0x66, 0xdc,
     0x6e, 0x9e, 0x57, 0x0f, 0x5e, 0xfb, 0x06, 0xff] := by decide

/-- T3: the tail, from the digest's last bytes on. -/
theorem test_frame_T3 : (controlFrame suggested .v2 tenA).drop 32 = [0x6e, 0x9e, 0x57, 0x75, 0xe5, 0x2c, 0x0b, 0xff] := by
  decide

/-- T6: the first two rows and the last. -/
theorem test_frame_T6 :
    (dataFrame suggested .v1 tenA 0).take 32 =
      [0x00, 0x00, 0x00, 0x00, 0xaa, 0x55, 0x42, 0x01, 0x02, 0x00, 0x00, 0x41, 0x41, 0x41, 0x14, 0x41,
       0x41, 0x41, 0x41, 0x41, 0x41, 0xff, 0x55, 0xff, 0xff, 0xff, 0xff, 0xff, 0xff, 0xff, 0xaa, 0xff] ∧
    (dataFrame suggested .v1 tenA 0).drop 256 =
      [0xff, 0xff, 0xff, 0xff, 0xff, 0xff, 0x55, 0xff, 0xff, 0xff, 0xff, 0x2e, 0x2f, 0x77, 0x1b, 0xff] := by decide +kernel

/-- T10: the first two rows and the last. -/
theorem test_frame_T10 :
    (dataFrame suggested .v2 ramp 0xFFFF).take 32 =
      [0x00, 0x00, 0x00, 0x00, 0xaa, 0x55, 0x42, 0x02, 0x02, 0x6a, 0xca, 0xac, 0x94, 0x37, 0xaf, 0x91,
       0x30, 0xaa, 0x92, 0x3d, 0xa5, 0x9f, 0x3e, 0xa0, 0x98, 0x3b, 0xa3, 0x85, 0x24, 0xbe, 0x86, 0x21] ∧
    (dataFrame suggested .v2 ramp 0xFFFF).drop 256 =
      [0xc0, 0x5a, 0x62, 0xcd, 0x55, 0x6f, 0xce, 0x50, 0x68, 0xcb, 0x53, 0x9d, 0x7b, 0xb4, 0x95, 0xff] := by decide +kernel

/-- T12: index and footer. -/
theorem test_frame_T12 :
    ((dataFrame suggested .v2 tenA 0x1234).drop 9).take 2 = [0xa1, 0x27] ∧
    (dataFrame suggested .v2 tenA 0x1234).drop 267 = [0x3e, 0x95, 0x9b, 0x27, 0xff] := by decide +kernel

/-! ## The sequencer, under the parameters of 95_test_vectors 2.6 -/

/-- E-1, E-2. -/
theorem test_silence_counts : [250, 150, 1, 0].map (ns 44100) = [11025, 6615, 44, 0] ∧
    ns 22050 7 = 154 ∧ ns 8000 1 = 8 ∧ ns 48000 3 = 144 := by decide

/-- E-3, E-4, E-5. -/
theorem test_frame_samples :
    (tones.bitrate false).frameSamples 44100 40 = 1600 ∧ (tones.bitrate false).frameSamples 44100 272 = 10880 ∧
    (tones.bitrate true).frameSamples 44100 40 = 6400 ∧ (tones.bitrate true).frameSamples 44100 272 = 43520 ∧
    (tones.bitrate false).frameSamples 48000 40 = 1742 ∧ (tones.bitrate false).frameSamples 48000 272 = 11843 := by decide

/-- What a segment is, its frame by length only. -/
def outline : Segment → String × Nat
  | .silence n => ("silence", n)
  | .pilotTone => ("pilot", 0)
  | .modulatedFrame f => ("frame", f.length)

/-- E-17 (frames shown by their lengths). -/
theorem test_plan_order :
    (plan tones (session .v1 .f32 .pcm) (ramp ++ tenA)).map outline =
      [("silence", 11025), ("frame", 40), ("silence", 2205), ("frame", 40), ("silence", 8820), ("frame", 272),
       ("silence", 882), ("frame", 272), ("silence", 882), ("silence", 11025)] := by decide +kernel

/-- E-7's segment count, with the pilot tone. -/
theorem test_plan_lbr : ((plan tones { session .v1 .f32 .pcm with lbr := true } []).map outline).take 3 =
    [("silence", 11025), ("pilot", 0), ("silence", 4410)] ∧
    (plan tones { session .v1 .f32 .pcm with lbr := true } []).length = 8 := by decide

/-- S1: the number of blocks. -/
theorem test_block_counts : [0, 1, 256, 257, 266, 2 ^ 24].map blockCount = [0, 1, 1, 2, 2, 65536] := by decide

end Sys2Proof.Tests
end

