-- ==== Sys2Proof/Tests/Witnesses.lean ====
section
/-! SUPPORT. A witness for the hypotheses of every obligation that has some. -/

namespace Sys2Proof.Tests

open Sys2Proof Sys2Proof.Machine

/-! ## Witnesses: for each obligation with hypotheses, a state and operands that meet them -/

/-- The word of a host access to CMD. -/
def cmd (w : Word) : List HostAccess := [.write 0 .word w]

theorem witness_IllegalWordsAreRejectedByName :
    ((0x00000100 : Word).toNat / 256 ≠ 0 ∧ (0xFFFFFFFF : Word).toNat / 256 ≠ 0) ∧
    ((0 : Word).toNat / 256 = 0 ∧ (0 : Word).toNat % 256 = 0) ∧
    ((6 : Word).toNat / 256 = 0 ∧ 6 ≤ (6 : Word).toNat % 256) ∧
    ((0xFF : Word).toNat / 256 = 0 ∧ 6 ≤ (0xFF : Word).toNat % 256) := by decide

theorem witness_CmdWriteRunsTheDecodedCommand :
    (pending (cmd 5) State.reset).hostQueue = .write 0 .word 5 :: [] ∧ decodeWord 5 = .ok .enccont := by decide

theorem witness_IllegalCommandChangesOnlyErr :
    ((pending (cmd 0x102) State.reset).hostQueue = .write 0 .word 0x102 :: [] ∧ (0x102 : Word).toNat / 256 ≠ 0) ∧
    ((pending (cmd 0) State.reset).hostQueue = .write 0 .word 0 :: [] ∧ (0 : Word).toNat % 256 = 0) ∧
    ((pending (cmd 6) State.reset).hostQueue = .write 0 .word 6 :: [] ∧ 6 ≤ (6 : Word).toNat % 256) := by decide

theorem witness_IdleStepHoldsAllState : State.reset.hostQueue = [] := rfl

/-- Both sides of the equivalence are met: reset has a step, a 16-bit register read has none. -/
theorem witness_StepAnswersExactlyOnLegalForms :
    Safe State.reset ∧ ¬ Safe (pending [.read 0 .half] State.reset) := by
  constructor
  · intro a rest h
    cases h
  · intro h
    exact absurd ((h _ _ rfl).1 (by decide)).1 (by decide)

/-- The last register byte, the last FMEM word off its alignment, and a PMEM word off its alignment. -/
theorem witness_ForbiddenAccessFormsAreRefused :
    ((pending [.read 0xFFF .byte] State.reset).hostQueue = .read 0xFFF .byte :: [] ∧
      (accessSpan (.read 0xFFF .byte)).1 < 0x1000 ∧
      ¬((accessSpan (.read 0xFFF .byte)).2 = 4 ∧ (accessSpan (.read 0xFFF .byte)).1 % 4 = 0)) ∧
    (0x1000 ≤ (accessSpan (.read 0x110E .word)).1 ∧
      ¬ FormLegal (accessSpan (.read 0x110E .word)).1 (accessSpan (.read 0x110E .word)).2) ∧
    (0x1000 ≤ (accessSpan (.write 0x01000002 .word 1)).1 ∧
      ¬ FormLegal (accessSpan (.write 0x01000002 .word 1)).1 (accessSpan (.write 0x01000002 .word 1)).2) := by
  have h₁ := Config.params.pmemSize_min
  refine ⟨⟨rfl, by decide, by decide⟩, ⟨by decide, fun h => ?_⟩, ⟨by decide, fun h => ?_⟩⟩
  · exact absurd (h.2 ⟨0, by decide, .inl (by decide)⟩) (by decide)
  · exact absurd (h.2 ⟨0, by decide, .inr ⟨by decide, by change 0x01000002 + 0 < _; omega⟩⟩) (by decide)

theorem witness_RwRegisterWriteKeepsTheUsedBits :
    ((0x08, .cfgVersion, 0xFF) ∈ rwTable ∧ (0x2C, .argIdx, 0xFFFFFFFF) ∈ rwTable) ∧
    (pending [.write 0x08 .word 0x102] State.reset).hostQueue = .write 0x08 .word 0x102 :: [] := by decide

theorem witness_RegisterReadReportsTheRegister :
    ((0x00, .cmd) ∈ registerTable ∧ (0x44, .mimeSel) ∈ registerTable) ∧
    (pending [.read 0x44 .word] State.reset).hostQueue = .read 0x44 .word :: [] := by decide

/-- STATUS, the first and the last word a write leaves alone, the first and the last reserved word. -/
theorem witness_ReservedAndReadOnlyWordsIgnoreWrites :
    (∀ a ∈ [(4 : Word), 0x30, 0xFFC], a.toNat < 0x1000 ∧ a.toNat % 4 = 0 ∧ (a.toNat = 4 ∨ 0x30 ≤ a.toNat) ∧
      (pending [.write a .word 9] State.reset).hostQueue = .write a .word 9 :: []) ∧
    (∀ a ∈ [(0x48 : Word), 0xFFC], a.toNat < 0x1000 ∧ a.toNat % 4 = 0 ∧ 0x48 ≤ a.toNat ∧
      (pending [.read a .word] State.reset).hostQueue = .read a .word :: []) := by
  constructor <;> intro a h <;> simp only [List.mem_cons, List.not_mem_nil, or_false] at h
  · rcases h with rfl | rfl | rfl <;> decide
  · rcases h with rfl | rfl <;> decide

/-- The first word and the last word every PMEM has. -/
theorem witness_PmemWriteStoresLittleEndian :
    ∀ off ∈ [0, 252], off + Width.word.bytes ≤ Config.params.pmemSize ∧ off % Width.word.bytes = 0 ∧
      (pending [.write (BitVec.ofNat 32 (0x01000000 + off)) .word 0x11223344] State.reset).hostQueue =
        .write (BitVec.ofNat 32 (0x01000000 + off)) .word 0x11223344 :: [] := by
  have h₁ := Config.params.pmemSize_min
  intro off h
  have hb : Width.word.bytes = 4 := rfl
  simp only [List.mem_cons, List.not_mem_nil, or_false] at h
  rw [hb]
  refine ⟨by omega, by omega, rfl⟩

/-- PMEM's first word and FMEM's last word, each with written and unwritten bytes. -/
theorem witness_MemoryReadReportsLittleEndian :
    (0 % Width.word.bytes = 0 ∧ 0 + Width.word.bytes ≤ Config.params.pmemSize ∧
      (pending [.read (BitVec.ofNat 32 (0x01000000 + 0)) .word] (configured .v1 .f32 .pcm [0x41])).hostQueue =
        .read (BitVec.ofNat 32 (0x01000000 + 0)) .word :: [] ∧
      (0 < Width.word.bytes ∧ (configured .v1 .f32 .pcm [0x41]).pmem.get (0 + 0) = some 0x41) ∧
      (3 < Width.word.bytes ∧ (configured .v1 .f32 .pcm [0x41]).pmem.get (0 + 3) = none)) ∧
    (268 % Width.word.bytes = 0 ∧ 268 + Width.word.bytes ≤ 272 ∧
      (pending [.read (BitVec.ofNat 32 (0x1000 + 268)) .word] State.reset).hostQueue =
        .read (BitVec.ofNat 32 (0x1000 + 268)) .word :: [] ∧
      Memory.get [(268, 0x41)] (268 + 0) = some 0x41 ∧ Memory.get [(268, 0x41)] (268 + 3) = none) := by
  have h₁ := Config.params.pmemSize_min
  refine ⟨⟨by decide, by change 4 ≤ _; omega, rfl, by decide, by decide⟩, by decide, by decide, rfl, by decide, by decide⟩

/-- FMEM's first byte, the word below PMEM, the last byte of the address space. -/
theorem witness_WritesOutsidePmemAreIgnored :
    ∀ x ∈ [((0x1000 : Word), Width.byte), (0x00FFFFFC, .word), (0xFFFFFFFF, .byte)],
      (pending [.write x.1 x.2 7] State.reset).hostQueue = .write x.1 x.2 7 :: [] ∧ 0x1000 ≤ x.1.toNat ∧
      FormLegal x.1.toNat x.2.bytes ∧
      (∀ k, k < x.2.bytes → x.1.toNat + k < 0x01000000 ∨ 0x01000000 + Config.params.pmemSize ≤ x.1.toNat + k) := by
  have h₁ := Config.params.pmemSize_max
  intro x h
  simp only [List.mem_cons, List.not_mem_nil, or_false] at h
  rcases h with rfl | rfl | rfl
  · refine ⟨rfl, by decide, ⟨fun h => absurd h (by decide), fun _ => by decide⟩, fun k hk => ?_⟩
    exact .inl (by change k < 1 at hk; change 0x1000 + k < _; omega)
  · refine ⟨rfl, by decide, ⟨fun h => absurd h (by decide), fun _ => by decide⟩, fun k hk => ?_⟩
    exact .inl (by change k < 4 at hk; change 0x00FFFFFC + k < _; omega)
  · refine ⟨rfl, by decide, ⟨fun h => absurd h (by decide), fun _ => by decide⟩, fun k hk => ?_⟩
    exact .inr (by change _ ≤ 0xFFFFFFFF + k; omega)

/-- The first and the last reserved byte. -/
theorem witness_ReservedBytesReadZero :
    ∀ x ∈ [(0x1110 : Word), 0xFFFFFFFF],
      (pending [.read x .byte] State.reset).hostQueue = .read x .byte :: [] ∧ 0x1110 ≤ x.toNat ∧
      (∀ k, k < Width.byte.bytes → x.toNat + k < 0x01000000 ∨ 0x01000000 + Config.params.pmemSize ≤ x.toNat + k) := by
  have h₁ := Config.params.pmemSize_max
  intro x h
  simp only [List.mem_cons, List.not_mem_nil, or_false] at h
  rcases h with rfl | rfl
  · refine ⟨rfl, by decide, fun k hk => .inl ?_⟩
    change k < 1 at hk
    change 0x1110 + k < _
    omega
  · refine ⟨rfl, by decide, fun k hk => .inr ?_⟩
    change _ ≤ 0xFFFFFFFF + k
    omega

theorem witness_ReadsHaveNoSideEffect :
    (pending [.read 0x14 .word] State.reset).hostQueue = .read 0x14 .word :: [] ∧
    step (pending [.read 0x14 .word] State.reset) = .next { State.reset with hostReads := [3] } := ⟨rfl, rfl⟩

/-- A written byte and an unwritten one, at the ends of a read of two bytes. -/
theorem witness_EngineReadsWhatWasWritten :
    (0 < 2 ∧ (configured .v1 .f32 .pcm [0x41]).pmem.get (0 + 0) = some 0x41) ∧
    (1 < 2 ∧ (configured .v1 .f32 .pcm [0x41]).pmem.get (0 + 1) = none) := by decide

/-- The codes are the registers' 2, 1 and 0. Parameters under which 44100 is a legal rate meet the second clause; this
block meets the first at each rate its own open SAMPLE_RATE_OK allows. -/
theorem witness_ConfigureLatchesTheSession :
    (∀ R, versionHasCode (staged R 2 0 3 1 0).regs.cfgVersion .v2 ∧
      formatHasCode (staged R 2 0 3 1 0).regs.cfgSampleFmt .i16 ∧
      containerHasCode (staged R 2 0 3 1 0).regs.cfgContainer .pcm ∧
      (staged R 2 0 3 1 0).regs.cfgSampleRate = R) ∧
    tones.sampleRateOk (staged 44100 2 0 3 1 0).regs.cfgSampleRate = true :=
  ⟨fun _ => ⟨.inr ⟨rfl, rfl⟩, .inr ⟨rfl, rfl⟩, .inl ⟨rfl, rfl⟩, rfl⟩, by decide⟩

theorem witness_FailedConfigureLocksTheOtherCommands :
    firstError 0x01 State.reset ≠ 0x00 ∧ Instr.mkctl ≠ .configure := by
  refine ⟨?_, by decide⟩
  have h : firstError 0x01 State.reset = 0x04 := if_pos Config.params.sampleRateOk_zero
  rw [h]
  decide

theorem witness_ControlFrameLayout : ramp.length < 2 ^ 32 ∧ 0 < 4 ∧ 3 < 4 := by
  rw [ramp_length]
  decide

theorem witness_DataFrameLayout :
    (ramp.length ≤ 256 ∧ ([] : List Byte).length ≤ 256) ∧ (0 < 256 ∧ 255 < 256) ∧ (0 < 4 ∧ 3 < 4) := by
  rw [ramp_length]
  decide

theorem witness_FormattersMakeWellFormedFrames : ramp.length ≤ 256 ∧ ([] : List Byte).length ≤ 256 :=
  ⟨ramp_length.le, Nat.zero_le _⟩

theorem witness_MkctlWritesTheControlFrame :
    (configured .v2 .f32 .pcm ramp).session.valid = true ∧
    (configured .v2 .f32 .pcm ramp).regs.plen.toNat ≤ Config.params.pmemSize ∧ 40 ≤ 40 :=
  ⟨rfl, configured_fits _ _ _ ramp_length.le, le_rfl⟩

/-- The largest length, offset and index together. -/
theorem witness_MkdataWritesTheDataFrame : ∃ s : State,
    s.session.valid = true ∧ s.regs.argLen.toNat ≤ 256 ∧ s.regs.argIdx.toNat ≤ 0xFFFF ∧
    s.regs.argOff.toNat + s.regs.argLen.toNat ≤ Config.params.pmemSize ∧ s.regs.argLen.toNat = 256 ∧
    s.regs.argIdx.toNat = 0xFFFF ∧ 272 ≤ 272 :=
  ⟨{ configured .v2 .f32 .pcm ramp with regs.argLen := 256, regs.argIdx := 0xFFFF }, rfl, by decide, by decide,
    Config.params.pmemSize_min, rfl, rfl, le_rfl⟩

/-- Both stripes' buffers; V1 data bytes 3, 11 and 255. -/
theorem witness_StripeV1TouchesOnlyItsDataBytes :
    [(0x01 : Byte), 0x02, 0x34, 0x12].length = 4 ∧ ramp.length = 256 ∧
    (3 < 256 ∧ ramp[3]? = some 0x03 ∧ 3 % 16 = 3) ∧ (11 < 256 ∧ ramp[11]? = some 0x0B ∧ 11 % 16 = 11) ∧
    (255 < 256 ∧ ramp[255]? = some 0xFF ∧ 255 % 16 ≠ 3 ∧ 255 % 16 ≠ 11) := by decide +kernel

theorem witness_StripeV2WalksItsStream :
    [(0x02 : Byte), 0x02, 0x34, 0x12].length = 4 ∧ ramp.length = 256 ∧
    (2 ≤ 2 ∧ 2 ≤ 259 ∧ ([0x02, 0x02, 0x34, 0x12] ++ ramp)[2]? = some 0x34) ∧
    (2 ≤ 259 ∧ 259 ≤ 259 ∧ ([0x02, 0x02, 0x34, 0x12] ++ ramp)[259]? = some 0xFF) := by decide +kernel

/-- A payload of 266 bytes has a full block 0 and a last block 1. -/
theorem witness_BlocksPartitionThePayload :
    (0 < blocksOf (ramp ++ tenA).length ∧ 0 + 1 < blocksOf (ramp ++ tenA).length) ∧
    (1 < blocksOf (ramp ++ tenA).length ∧ 1 + 1 = blocksOf (ramp ++ tenA).length) := by decide +kernel

theorem witness_PlanHasTheFixedSegmentOrder :
    (3 = (if ({ session .v1 .f32 .pcm with lbr := true } : Session).lbr then 3 else 1) ∧
      ({ session .v1 .f32 .pcm with lbr := true } : Session).lbr = true) ∧
    (1 = (if (session .v1 .f32 .pcm).lbr then 3 else 1)) ∧
    (0 < blocksOf (ramp ++ tenA).length ∧ 1 < blocksOf (ramp ++ tenA).length) := by decide +kernel

/-- The first and the last pilot sample, and the rate of the last clause. -/
theorem witness_SegmentsRealiseToTheirSamples :
    (0 < tones.pilotMs * (session .v1 .f32 .pcm).sampleRate.toNat / 1000 ∧
      22049 < tones.pilotMs * (session .v1 .f32 .pcm).sampleRate.toNat / 1000) ∧
    (session .v1 .f32 .pcm).sampleRate = 44100 := by decide

theorem witness_EncodeWritesTheSampleStream : ∃ xs : List F32,
    (configured .v2 .i16 .pcm ramp).session.valid = true ∧
    (configured .v2 .i16 .pcm ramp).regs.plen.toNat ≤ Config.params.pmemSize ∧
    xs = realise Config.params (configured .v2 .i16 .pcm ramp).session
      (plan Config.params (configured .v2 .i16 .pcm ramp).session
        (memRead 0 (configured .v2 .i16 .pcm ramp).regs.plen.toNat (configured .v2 .i16 .pcm ramp))) :=
  ⟨_, rfl, configured_fits _ _ _ ramp_length.le, rfl⟩

theorem witness_EnccontWritesThePcmContainer : ∃ xs : List F32,
    (configured .v2 .i16 .pcm ramp).session.valid = true ∧
    (configured .v2 .i16 .pcm ramp).regs.plen.toNat ≤ Config.params.pmemSize ∧
    (configured .v2 .i16 .pcm ramp).session.container = .pcm ∧
    xs = realise Config.params (configured .v2 .i16 .pcm ramp).session
      (plan Config.params (configured .v2 .i16 .pcm ramp).session
        (memRead 0 (configured .v2 .i16 .pcm ramp).regs.plen.toNat (configured .v2 .i16 .pcm ramp))) :=
  ⟨_, rfl, configured_fits _ _ _ ramp_length.le, rfl, rfl⟩

theorem witness_EnccontWritesTheCompressedContainer : ∃ xs : List F32,
    (configured .v2 .i16 .compressed ramp).session.valid = true ∧
    (configured .v2 .i16 .compressed ramp).regs.plen.toNat ≤ Config.params.pmemSize ∧
    (configured .v2 .i16 .compressed ramp).session.container = .compressed ∧
    (configured .v2 .i16 .compressed ramp).session.sampleRate.toNat = 44100 ∧
    xs = realise Config.params (configured .v2 .i16 .compressed ramp).session
      (plan Config.params (configured .v2 .i16 .compressed ramp).session
        (memRead 0 (configured .v2 .i16 .compressed ramp).regs.plen.toNat (configured .v2 .i16 .compressed ramp))) :=
  ⟨_, rfl, configured_fits _ _ _ ramp_length.le, rfl, rfl, rfl⟩

theorem witness_PcmContainerLaw :
    [(0x1234 : I16)].length < 256 ^ 39 ∧ [(0x1234 : I16)][0]? = some 0x1234 := by decide

/-- A successful ENCODE on this state. -/
theorem encode_configured (v : Version) (f : SampleFmt) (k : Container) {p : List Byte} (h : p.length ≤ 256) :
    ∃ t, exec .encode (configured v f k p) = .next t ∧ t.regs.err = 0x00 := by
  have hf := configured_fits v f k h
  have hp := configured_plen v f k h
  show ∃ t, execEncode _ = .next t ∧ _
  rw [execEncode, if_neg (by simp [configured, session]), if_neg (by rw [hp, blockCount_eq, maxBlocks]; omega),
    if_neg (by omega)]
  exact ⟨_, rfl, rfl⟩

/-- A successful ENCCONT on this state. -/
theorem enccont_configured (v : Version) (f : SampleFmt) (k : Container) {p : List Byte} (h : p.length ≤ 256) :
    ∃ t, exec .enccont (configured v f k p) = .next t ∧ t.regs.err = 0x00 := by
  have hf := configured_fits v f k h
  have hp := configured_plen v f k h
  show ∃ t, execEnccont _ = .next t ∧ _
  rw [execEnccont, if_neg (by simp [configured, session]), if_neg (by rw [hp, blockCount_eq, maxBlocks]; omega),
    if_neg (by omega), if_neg (by simp [configured, session, compressedRate])]
  exact ⟨_, rfl, rfl⟩

/-- A successful MKCTL on this state. -/
theorem mkctl_configured (v : Version) (f : SampleFmt) (k : Container) {p : List Byte} (h : p.length ≤ 256) :
    ∃ t, exec .mkctl (configured v f k p) = .next t ∧ t.regs.err = 0x00 := by
  have hf := configured_fits v f k h
  show ∃ t, execMkctl _ = .next t ∧ _
  rw [execMkctl, if_neg (by simp [configured, session]), if_neg (by omega)]
  exact ⟨_, rfl, rfl⟩

theorem witness_EnccontNeverSubstitutesAContainer :
    (∃ t, exec .enccont (configured .v1 .f32 .pcm ramp) = .next t ∧ t.regs.err = 0x00) ∧
    ∃ t, exec .enccont (configured .v1 .f32 .compressed ramp) = .next t ∧ t.regs.err = 0x00 :=
  ⟨enccont_configured _ _ _ ramp_length.le, enccont_configured _ _ _ ramp_length.le⟩

/-- A realised plan has a sample: its Control frame's port answers at least one. -/
theorem realised_sample (c : Params) (v : Version) (f : SampleFmt) (k : Container) (p : List Byte) :
    ∃ x, (realise c (session v f k) (plan c (session v f k) p))[0]? = some x := by
  have hl : 0 < (c.modulate false 44100 (controlFrame c v p)).length := by
    have h₁ := (c.bitrate false).num_pos
    have h₂ := (c.bitrate false).den_pos
    rw [c.modulate_length, PosRat.frameSamples, ceilDiv, controlFrame_length, show (44100 : Word).toNat = 44100 from rfl]
    exact Nat.div_pos (by omega) h₁
  obtain ⟨y, hy⟩ := List.exists_mem_of_length_pos hl
  have hm : y ∈ realise c (session v f k) (plan c (session v f k) p) :=
    List.mem_flatMap.2 ⟨.modulatedFrame (controlFrame c v p), by simp [plan, controlSegments, session], hy⟩
  exact ⟨_, List.getElem?_eq_getElem (List.length_pos_of_mem hm)⟩

/-- A successful ENCCONT of a PCM session, and the first sample of its stream. -/
theorem witness_SuccessfulEnccontDeclaresItsStream : ∃ (t : State) (xs : List F32) (x : F32),
    (configured .v1 .f32 .pcm ramp).session.container = .pcm ∧
    xs = realise Config.params (configured .v1 .f32 .pcm ramp).session
      (plan Config.params (configured .v1 .f32 .pcm ramp).session
        (memRead 0 (configured .v1 .f32 .pcm ramp).regs.plen.toNat (configured .v1 .f32 .pcm ramp))) ∧
    exec .enccont (configured .v1 .f32 .pcm ramp) = .next t ∧ t.regs.err = 0x00 ∧ xs[0]? = some x := by
  obtain ⟨t, h, he⟩ := enccont_configured .v1 .f32 .pcm (p := ramp) ramp_length.le
  obtain ⟨x, hx⟩ := realised_sample Config.params .v1 .f32 .pcm
    (memRead 0 (configured .v1 .f32 .pcm ramp).regs.plen.toNat (configured .v1 .f32 .pcm ramp))
  exact ⟨t, _, x, rfl, rfl, h, he, hx⟩

/-- One command that fails, one that does not. -/
theorem witness_CommandsReportTheFirstError :
    ((pending (cmd 6) State.reset).hostQueue = .write 0 .word 6 :: [] ∧
      firstError 6 (pending (cmd 6) State.reset) ≠ 0x00) ∧
    ((pending (cmd 2) (configured .v1 .f32 .pcm [0x41])).hostQueue = .write 0 .word 2 :: [] ∧
      firstError 2 (pending (cmd 2) (configured .v1 .f32 .pcm [0x41])) = 0x00) := by
  refine ⟨⟨rfl, by decide⟩, rfl, ?_⟩
  exact if_neg (Nat.not_lt.2 (configured_fits .v1 .f32 .pcm (p := [0x41]) (by decide)))

theorem witness_FailedCommandWritesOnlyErr : ∃ t, exec .encode State.reset = .next t ∧ t.regs.err ≠ 0x00 :=
  ⟨_, rfl, by decide⟩

theorem witness_NotConfiguredWithoutASession : Instr.mkdata ≠ .configure ∧ State.reset.session.valid = false := by
  decide

theorem witness_CommandsKeepOperandsAndPmem : ∃ t, exec .mkctl (configured .v1 .f32 .pcm ramp) = .next t := by
  obtain ⟨t, h, _⟩ := mkctl_configured .v1 .f32 .pcm (p := ramp) ramp_length.le
  exact ⟨t, h⟩

theorem witness_StagingRegistersReachOnlyConfigure :
    Instr.encode ≠ .configure ∧ ∃ t, exec .encode (configured .v1 .f32 .pcm ramp) = .next t := by
  obtain ⟨t, h, _⟩ := encode_configured .v1 .f32 .pcm (p := ramp) ramp_length.le
  exact ⟨by decide, t, h⟩

/-- A CONFIGURE at rate 0 takes a valid session away; at reset there is none, and a CONFIGURE would fail. -/
theorem witness_SessionChangesOnlyByConfigure :
    (∃ t, step (pending (cmd 1) (configured .v1 .f32 .pcm [])) = .next t ∧
      t.session ≠ (pending (cmd 1) (configured .v1 .f32 .pcm [])).session) ∧
    (∃ t, step (pending (cmd 1) State.reset) = .next t) ∧ (pending (cmd 1) State.reset).session.valid = false ∧
    firstError 0x00000001 (pending (cmd 1) State.reset) ≠ 0x00 := by
  have h : firstError 0x01 (pending (cmd 1) State.reset) = 0x04 := if_pos Config.params.sampleRateOk_zero
  exact ⟨⟨_, rfl, by decide⟩, ⟨_, rfl⟩, rfl, by rw [h]; decide⟩

theorem run_mkctl (s : State) : runCommand 2 s = execMkctl s := rfl
theorem run_encode (s : State) : runCommand 4 s = execEncode s := rfl
theorem run_enccont (s : State) : runCommand 5 s = execEnccont s := rfl

/-- FLEN, OUT and MIME_SEL change: MKCTL, ENCODE (from an OUT that is not its result) and ENCCONT. -/
theorem witness_ResultsChangeOnlyByTheirCommands :
    (∃ t, step (pending (cmd 2) (configured .v1 .f32 .pcm [0x41])) = .next t ∧
      t.regs.flen ≠ (pending (cmd 2) (configured .v1 .f32 .pcm [0x41])).regs.flen) ∧
    (∃ s t : State, step s = .next t ∧ t.out ≠ s.out) ∧
    (∃ t, step (pending (cmd 5) (configured .v1 .f32 .pcm [0x41])) = .next t ∧
      t.regs.mimeSel ≠ (pending (cmd 5) (configured .v1 .f32 .pcm [0x41])).regs.mimeSel) := by
  have hf := configured_fits .v1 .f32 .pcm (p := [0x41]) (by decide)
  have hp := configured_plen .v1 .f32 .pcm (p := [0x41]) (by decide)
  have hb : ¬ blockCount (configured .v1 .f32 .pcm [0x41]).regs.plen.toNat > maxBlocks := by
    rw [hp]
    decide
  refine ⟨?_, ⟨{ pending (cmd 4) (configured .v1 .f32 .pcm [0x41]) with out := [.i16 1] }, ?_⟩, ?_⟩
  · rw [step_cmdWrite rfl, run_mkctl, execMkctl, if_neg (by simp [pending, configured, session]), if_neg (by exact Nat.not_lt.2 hf)]
    refine ⟨_, rfl, ?_⟩
    show BitVec.ofNat 9 (controlFrame _ _ _).length ≠ _
    rw [controlFrame_length]
    decide
  · rw [step_cmdWrite rfl, run_encode, execEncode, if_neg (by simp [pending, configured, session]), if_neg (by exact hb),
      if_neg (by exact Nat.not_lt.2 hf)]
    refine ⟨_, rfl, fun h => ?_⟩
    simp only [succeed_out, takeDraw_out, outWrite_out] at h
    have h₁ : Sample.i16 1 ∈ encodeSamples Config.params (session .v1 .f32 .pcm) _ := h ▸ List.mem_singleton.2 rfl
    simp [encodeSamples, session, convert] at h₁
  · rw [step_cmdWrite rfl, run_enccont, execEnccont, if_neg (by simp [pending, configured, session]), if_neg (by exact hb),
      if_neg (by exact Nat.not_lt.2 hf), if_neg (by simp [pending, configured, session])]
    exact ⟨_, rfl, show (1 : BitVec 2) ≠ 0 by decide⟩

/-- The write of PMEM's first byte. -/
theorem witness_PmemChangesOnlyByHostWrites : ∃ s t : State, step s = .next t ∧ t.pmem ≠ s.pmem := by
  have h₁ := Config.params.pmemSize_min
  have hr : regionOf 0x01000000 = .pmem 0 := regionOf_pmem (off := 0) (by omega)
  have hf : FormLegal (0x01000000 : Word).toNat Width.byte.bytes :=
    ⟨fun h => absurd h (by decide), fun _ => Nat.mod_one _⟩
  refine ⟨pending [.write 0x01000000 .byte 0x41] State.reset, _, step_write rfl hf (by decide), ?_⟩
  show (hostWrite 0x01000000 .byte 0x41 State.reset).pmem ≠ []
  rw [hostWrite, hr]
  show (writeHostByte 0x01000000 0x41 State.reset).pmem ≠ []
  rw [writeHostByte, hr]
  decide

theorem witness_ErrChangesOnlyByCmdWrites :
    ∃ t, step (pending (cmd 6) State.reset) = .next t ∧ t.regs.err ≠ (pending (cmd 6) State.reset).regs.err :=
  ⟨_, rfl, by decide⟩

theorem configured_written (v : Version) (f : SampleFmt) (k : Container) (b : Byte) :
    PmemWritten (configured v f k [b]) 0 (configured v f k [b]).regs.plen.toNat := by
  intro n hn
  change n < 1 at hn
  obtain rfl : n = 0 := by omega
  exact ⟨b, rfl⟩

/-- Two states that differ in the repeat count, in STATUS.ERR, in the staging registers and in the rest of PMEM. -/
theorem witness_EncodingsDependOnlyOnSessionAndPayload : ∃ s₁ s₂ : State, ∃ rep : Word,
    s₁.session.valid = true ∧ s₂.session = { s₁.session with repeatCount := rep } ∧ s₂.regs.plen = s₁.regs.plen ∧
    s₁.regs.plen.toNat ≤ Config.params.pmemSize ∧ PmemWritten s₁ 0 s₁.regs.plen.toNat ∧
    (∀ k, k < s₁.regs.plen.toNat → s₂.pmem.get k = s₁.pmem.get k) ∧ s₂ ≠ s₁ ∧ s₁.regs.plen.toNat = 1 ∧
    (∃ t, exec .encode s₁ = .next t) ∧ (∃ t, exec .encode s₂ = .next t) ∧
    (∃ t, exec .enccont s₁ = .next t ∧ t.regs.err = 0x00) ∧ ∃ t, exec .enccont s₂ = .next t := by
  have hf := configured_fits .v1 .f32 .pcm (p := [0x41]) (by decide)
  have run : ∀ (i : Instr) (s : State), ∃ t, exec i s = .next t := by
    intro i s
    cases i <;> simp only [exec, execConfigure, configureWith, execMkctl, execMkdata, execEncode, execEnccont] <;> (repeat' split) <;>
      exact ⟨_, rfl⟩
  refine ⟨configured .v1 .f32 .pcm [0x41],
    { configured .v1 .f32 .pcm [0x41] with
      session.repeatCount := 9, regs.err := 0x06, regs.cfgVersion := 2, pmem := [(0, 0x41), (7, 0x00)] },
    9, rfl, rfl, rfl, hf, configured_written _ _ _ _, ?_, by decide, rfl, run _ _, run _ _,
    enccont_configured _ _ _ (by decide), run _ _⟩
  intro n hn
  change n < 1 at hn
  obtain rfl : n = 0 := by omega
  rfl

theorem witness_RepeatedCommandRewritesIdenticalResults : ∃ s t u : State,
    s.fmem.wf ∧ OperandsWritten .mkctl s ∧ exec .mkctl s = .next t ∧ t.regs.err = 0x00 ∧ exec .mkctl t = .next u := by
  obtain ⟨t, h, he⟩ := mkctl_configured .v1 .f32 .pcm (p := [0x41]) (by decide)
  have hu : ∃ u, exec .mkctl t = .next u := by
    simp only [exec, execMkctl]
    (repeat' split) <;> exact ⟨_, rfl⟩
  obtain ⟨u, hu⟩ := hu
  refine ⟨_, t, u, List.Pairwise.nil, configured_written _ _ _ _, h, he, hu⟩

/-- One byte written, a CMD write of an illegal word pending. -/
def oneByte : State := { pending (cmd 6) State.reset with pmem := [(0, 0x41)], regs.err := 0x04 }

theorem oneByte_step : ∃ t, step oneByte = .next t := ⟨_, rfl⟩

theorem witness_StepKeepsMemoryCanonical : MemoryCanonical oneByte ∧ ∃ t, step oneByte = .next t := by
  have h₁ := Config.params.pmemSize_min
  refine ⟨⟨List.pairwise_singleton _ _, fun c h => ?_, List.Pairwise.nil, fun _ h => by cases h⟩, oneByte_step⟩
  obtain rfl := List.mem_singleton.1 h
  show 0 < _
  omega

theorem witness_StepKeepsTheFrameBufferLegal : FrameBufferLegal oneByte ∧ ∃ t, step oneByte = .next t :=
  ⟨.inl rfl, oneByte_step⟩

theorem witness_StepKeepsTheInvariant : Inv oneByte ∧ ∃ t, step oneByte = .next t :=
  ⟨{ memory := witness_StepKeepsMemoryCanonical.1
     status := ⟨by decide, by decide⟩
     buffer := .inl rfl
     outputs := ⟨rfl, rfl⟩
     session := fun h => by cases h
     samples := fun _ h => by cases h
     container := ⟨fun _ => rfl, fun h => absurd h (by decide), fun h => absurd h (by decide)⟩ }, oneByte_step⟩

end Sys2Proof.Tests
end

section
/-! SUPPORT. The bytes of a PMEM read, written and unwritten, and the scope's obligation on MemRead. -/

namespace Sys2Proof.Machine

theorem readPmem_of_written {s : State} {off : Nat} {b : Byte} (h : s.pmem.get off = some b) :
    readPmem s off = b := by
  rw [readPmem, h, Option.getD_some]

theorem readPmem_of_unwritten {s : State} {off : Nat} (h : s.pmem.get off = none) :
    readPmem s off = Config.freeByte s.draws (pmemBase + off) := by
  rw [readPmem, h, Option.getD_none]

/-- Settles O22: byte `k` of a MemRead is the PMEM byte at `addr + k`, which is either written or free. -/
theorem engineReadsWhatWasWritten : Obligations.EngineReadsWhatWasWritten := by
  intro s addr n k hk
  refine ⟨memRead_length addr n s, fun b written => ?_, fun unwritten => ?_⟩
  · rw [memRead_get addr n s hk, readPmem_of_written written]
  · rw [memRead_get addr n s hk, readPmem_of_unwritten unwritten, pmemBase]

end Sys2Proof.Machine
end

section
/-! SUPPORT. The frames the formatters build are well formed, the samples of a session lie in [-1, 1], and the bytes of
a container are what its MIME_SEL says. -/

namespace Sys2Proof.Machine

/-! ## Frames (41_frame_formatters R134) -/

theorem WellFormedFrame.length_le {c : Params} {f : List Byte} (h : WellFormedFrame c f) : f.length ≤ 272 := by
  obtain ⟨-, hl, -⟩ | ⟨-, hl⟩ := h.type_length <;> omega

/-- The footer stands in the four bytes before the stop marker. -/
theorem frame_take_footer (c : Params) (body : List Byte) :
    ((frame c body).drop (body.length + 7)).take 4 = footer c body := by
  rw [Nat.add_comm, ← List.drop_drop, frame_drop_preamble, List.append_assoc, List.drop_left]
  exact List.take_left' (footer_length c body)

/-- A frame around a body that starts with a known version code and a type code that agrees with its length passes the
receiver's checks: preamble, footer and stop are the assembly's. -/
theorem frame_wellFormed (c : Params) (v : Version) {body : List Byte} (version : body[0]? = some (versionCode v))
    (type_length : (body[1]? = some typeControl ∧ body.length = 28 ∧ body[2]? = some 0x00#8 ∧ body[3]? = some 0x00#8)
      ∨ (body[1]? = some typeData ∧ body.length = 260)) :
    WellFormedFrame c (frame c body) := by
  have hlen : 4 ≤ body.length := by omega
  have get : ∀ i, i < 4 → (frame c body)[7 + i]? = body[i]? := fun i hi => frame_get_body c body (by omega)
  refine ⟨frame_take_preamble c body, ?_, ?_, ?_, ?_⟩
  · rw [get 0 (by decide), version]
    cases v <;> simp [versionCode]
  · rw [get 1 (by decide), get 2 (by decide), get 3 (by decide), frame_length]
    exact type_length.imp (fun ⟨h₁, hl, h₂, h₃⟩ => ⟨h₁, by omega, h₂, h₃⟩) (fun ⟨h₁, hl⟩ => ⟨h₁, by omega⟩)
  · rw [frame_length, Nat.add_sub_cancel, frame_body]
    exact frame_take_footer c body
  · rw [frame_length]
    exact frame_get_stop c body

theorem controlFrame_wellFormed (c : Params) (v : Version) (p : List Byte) :
    WellFormedFrame c (controlFrame c v p) :=
  frame_wellFormed c v rfl (.inl ⟨rfl, controlBody_length c v p, rfl, rfl⟩)

/-- Neither stripe touches the first two header bytes (42_whitening R150, R152). -/
theorem whiten_fst_get (v : Version) (hdr dat : List Byte) {j : Nat} (h : j < 2) :
    (whiten v hdr dat).1[j]? = hdr[j]? := by
  cases v with
  | v1 => rfl
  | v2 => simp [whiten, stripeV2, show ¬ 2 ≤ j by omega]

theorem dataBody_get_header (v : Version) (blk : List Byte) (idx : BitVec 16) {j : Nat} (h : j < 2) :
    (dataBody v blk idx)[j]? = (dataHeader v idx)[j]? := by
  rw [dataBody, List.getElem?_append_left (by simp; omega), whiten_fst_get v _ _ h]

theorem dataFrame_wellFormed (c : Params) (v : Version) {blk : List Byte} (idx : BitVec 16) (h : blk.length ≤ 256) :
    WellFormedFrame c (dataFrame c v blk idx) :=
  frame_wellFormed c v (dataBody_get_header v blk idx (by decide))
    (.inr ⟨dataBody_get_header v blk idx (by decide), dataBody_length v idx h⟩)

/-! ## Samples (43_sequencer R172) -/

/-- No segment realises to a sample outside [-1, 1]: silence is +0.0, the others are bounded by their parameters. -/
theorem realiseSegment_inUnit {c : Params} {x : Session} {g : Segment} {b : F32} (h : b ∈ realiseSegment c x g) :
    inUnit b = true := by
  cases g with
  | silence n =>
    rw [List.eq_of_mem_replicate h]
    decide
  | pilotTone =>
    obtain ⟨k, -, rfl⟩ := List.mem_map.1 h
    exact c.roundedCosine_unit _ k _
  | modulatedFrame f => exact c.modulate_unit _ _ f b h

theorem realise_inUnit {c : Params} {x : Session} {P : List Segment} {b : F32} (h : b ∈ realise c x P) :
    inUnit b = true := by
  obtain ⟨g, -, hb⟩ := List.mem_flatMap.1 h
  exact realiseSegment_inUnit hb

theorem encodeSamples_inUnit {c : Params} {x : Session} {p : List Byte} {b : F32}
    (h : Sample.f32 b ∈ encodeSamples c x p) : inUnit b = true := by
  unfold encodeSamples at h
  cases hf : x.sampleFmt with
  | f32 =>
    simp only [hf, convert, List.mem_map, Sample.f32.injEq, exists_eq_right] at h
    exact realise_inUnit h
  | i16 => simp [hf, convert] at h

/-! ## Containers (44_external_ports R210, R211) -/

/-- The bytes are a container of the kind. -/
def IsContainer (c : Params) : Container → List Byte → Prop
  | .pcm, b => ∃ R q, b = pcmContainer c R q
  | .compressed, b => ∃ xs, b = c.compressEncode xs

theorem containerBytes_isContainer (c : Params) (x : Session) (p : List Byte) :
    IsContainer c x.container (containerBytes c x p) := by
  unfold containerBytes
  cases x.container with
  | pcm => exact ⟨_, _, rfl⟩
  | compressed => exact ⟨_, rfl⟩

end Sys2Proof.Machine
end

section
/-! SUPPORT. The elementary effects a step is made of, and a property that each of them keeps is kept by every step. The
scope's obligation on the invariant of the block. -/

namespace Sys2Proof.Machine

variable {P : State → Prop} {s t : State}

/-- Every elementary effect of a step keeps `P`: the model's own host side, a register write, STATUS.ERR, a PMEM byte, the
session, and the three result writes with what the commands put into them. -/
structure KeptByEffects (P : State → Prop) : Prop where
  host : ∀ {s} q r d, P s → P { s with hostQueue := q, hostReads := r, draws := d }
  register : ∀ {s} r v, P s → P (writeReg r v s)
  err : ∀ {s} {e : BitVec 8}, e.toNat ≤ 7 → P s → P { s with regs.err := e }
  pmemByte : ∀ {s off} b, off < Config.params.pmemSize → P s → P { s with pmem := s.pmem.set off b }
  session : ∀ {s} {x : Session}, (x.valid = true → Config.params.sampleRateOk x.sampleRate = true) → P s →
    P { s with session := x }
  frame : ∀ {s f}, WellFormedFrame Config.params f → P s → P (frameWrite f s)
  out : ∀ {s xs}, (∀ b, Sample.f32 b ∈ xs → inUnit b = true) → P s → P (outWrite xs s)
  container : ∀ {s k b}, IsContainer Config.params k b → P s → P (containerWrite b (mimeSelOf k) s)

namespace KeptByEffects

variable (hP : KeptByEffects P)
include hP

theorem of_raiseError (e : ErrorCode) (h : P s) : P (raiseError e s) := hP.err (code_range e).2 h

theorem of_succeed (h : P s) : P (succeed s) := hP.err (by decide) h

theorem of_takeDraw (h : P s) : P (takeDraw s) := hP.host s.hostQueue s.hostReads (s.draws + 1) h

theorem of_failConfigure (e : ErrorCode) (h : P s) : P (failConfigure e s) :=
  hP.of_raiseError e (hP.session (by simp) h)

/-! ## Commands -/

theorem of_execConfigure (h : P s) (ht : execConfigure s = .next t) : P t := by
  obtain ⟨e, rfl⟩ | ⟨x, -, hrate, hok, rfl⟩ := execConfigure_cases ht
  · exact hP.of_failConfigure e h
  · rw [rateOk_eq, ← hrate] at hok
    exact hP.of_succeed (hP.session (fun _ => hok) h)

theorem of_execMkctl (h : P s) (ht : execMkctl s = .next t) : P t := by
  obtain ⟨e, rfl⟩ | ⟨-, -, rfl⟩ := execMkctl_cases ht
  · exact hP.of_raiseError e h
  · exact hP.of_succeed (hP.of_takeDraw (hP.frame (controlFrame_wellFormed _ _ _) h))

theorem of_execMkdata (h : P s) (ht : execMkdata s = .next t) : P t := by
  obtain ⟨e, rfl⟩ | ⟨-, hlen, -, -, rfl⟩ := execMkdata_cases ht
  · exact hP.of_raiseError e h
  · have hf := dataFrame_wellFormed Config.params s.session.version (s.regs.argIdx.setWidth 16)
      ((memRead_length s.regs.argOff.toNat s.regs.argLen.toNat s).trans_le hlen)
    exact hP.of_succeed (hP.of_takeDraw (hP.frame hf h))

theorem of_execEncode (h : P s) (ht : execEncode s = .next t) : P t := by
  obtain ⟨e, rfl⟩ | ⟨-, -, rfl⟩ := execEncode_cases ht
  · exact hP.of_raiseError e h
  · exact hP.of_succeed (hP.of_takeDraw (hP.out (fun _ => encodeSamples_inUnit) h))

theorem of_execEnccont (h : P s) (ht : execEnccont s = .next t) : P t := by
  obtain ⟨e, rfl⟩ | ⟨-, -, -, rfl⟩ := execEnccont_cases ht
  · exact hP.of_raiseError e h
  · exact hP.of_succeed (hP.of_takeDraw (hP.container (containerBytes_isContainer _ _ _) h))

theorem of_exec {i : Instr} (h : P s) (ht : exec i s = .next t) : P t := by
  cases i with
  | configure => exact hP.of_execConfigure h ht
  | mkctl => exact hP.of_execMkctl h ht
  | mkdata => exact hP.of_execMkdata h ht
  | encode => exact hP.of_execEncode h ht
  | enccont => exact hP.of_execEnccont h ht

theorem of_runCommand {v : Word} (h : P s) (ht : runCommand v s = .next t) : P t := by
  obtain ⟨i, -, hi⟩ | rfl := runCommand_cases ht
  · exact hP.of_exec h hi
  · exact hP.of_raiseError .illegalCommand h

/-! ## Host accesses -/

theorem of_hostRead (a : Nat) (w : Width) (h : P s) : P (hostRead a w s) := by
  obtain ⟨v, d, heq⟩ := hostRead_eq a w s
  rw [heq]
  exact hP.host s.hostQueue (v :: s.hostReads) d h

theorem of_writeHostByte (a : Nat) (b : Byte) (h : P s) : P (writeHostByte a b s) := by
  unfold writeHostByte
  split
  next off hr => exact hP.pmemByte b (regionOf_eq_pmem hr).2 h
  all_goals exact h

theorem of_writeHostBytes (a : Nat) (bs : List Byte) (h : P s) : P (writeHostBytes a bs s) := by
  induction bs generalizing a s with
  | nil => exact h
  | cons b bs ih => exact ih (a + 1) (hP.of_writeHostByte a b h)

theorem of_writeWindow (off : Nat) (v : Word) (h : P s) : P (writeWindow off v s) := by
  unfold writeWindow
  split
  next r _ => exact hP.register r v h
  next => exact h

theorem of_hostWrite (a : Nat) (w : Width) (v : Word) (h : P s) : P (hostWrite a w v s) := by
  unfold hostWrite
  split
  next off _ => exact hP.of_writeWindow off v h
  all_goals exact hP.of_writeHostBytes a _ h

/-- A property that every elementary effect keeps is kept by every step. -/
theorem of_step (h : P s) (ht : step s = .next t) : P t := by
  have taken : ∀ rest, P { s with hostQueue := rest } := fun rest => hP.host rest s.hostReads s.draws h
  obtain ⟨-, rfl⟩ | ⟨addr, w, rest, -, -, rfl⟩ | ⟨v, rest, -, hv⟩ | ⟨addr, w, v, rest, -, -, -, rfl⟩ := step_cases ht
  · exact h
  · exact hP.of_hostRead addr.toNat w (taken rest)
  · exact hP.of_runCommand (taken rest) hv
  · exact hP.of_hostWrite addr.toNat w v (taken rest)

end KeptByEffects

/-! ## The parts of the invariant -/

theorem memoryCanonical_kept : KeptByEffects MemoryCanonical where
  host _ _ _ h := ⟨h.pmem_wf, h.pmem_below, h.fmem_wf, h.fmem_below⟩
  register r _ h := by cases r <;> exact ⟨h.pmem_wf, h.pmem_below, h.fmem_wf, h.fmem_below⟩
  err _ h := ⟨h.pmem_wf, h.pmem_below, h.fmem_wf, h.fmem_below⟩
  pmemByte _ hoff h := ⟨Memory.set_wf h.pmem_wf, Memory.set_below h.pmem_below hoff, h.fmem_wf, h.fmem_below⟩
  session _ h := ⟨h.pmem_wf, h.pmem_below, h.fmem_wf, h.fmem_below⟩
  frame hf h := ⟨h.pmem_wf, h.pmem_below, Memory.writeBytes_wf h.fmem_wf,
    Memory.writeBytes_below h.fmem_below (by simpa [fmemSize] using hf.length_le)⟩
  out _ h := ⟨h.pmem_wf, h.pmem_below, h.fmem_wf, h.fmem_below⟩
  container _ h := ⟨h.pmem_wf, h.pmem_below, h.fmem_wf, h.fmem_below⟩

theorem mimeSelOf_le (k : Container) : (mimeSelOf k).toNat ≤ 2 := by cases k <;> decide

theorem statusLegal_kept : KeptByEffects StatusLegal where
  host _ _ _ h := ⟨h.err, h.mime⟩
  register r _ h := by cases r <;> exact ⟨h.err, h.mime⟩
  err he h := ⟨he, h.mime⟩
  pmemByte _ _ h := ⟨h.err, h.mime⟩
  session _ h := ⟨h.err, h.mime⟩
  frame _ h := ⟨h.err, h.mime⟩
  out _ h := ⟨h.err, h.mime⟩
  container {_ k _} _ h := ⟨h.err, mimeSelOf_le k⟩

/-- A written frame fills FMEM[0 : FLEN], and no other effect touches FMEM or FLEN. -/
theorem frameBufferLegal_kept : KeptByEffects FrameBufferLegal where
  host _ _ _ h := h
  register r _ h := by cases r <;> exact h
  err _ h := h
  pmemByte _ _ h := h
  session _ h := h
  frame {s f} hf _ := by
    have hlen := hf.length_le
    refine .inr ⟨f, hf, ?_, fun i hi => ?_⟩
    · rw [frameWrite_regs, BitVec.toNat_ofNat, Nat.mod_eq_of_lt (by omega)]
    · rw [frameWrite_get, if_pos hi]
  out _ h := h
  container _ h := h

theorem outputsCounted_kept : KeptByEffects OutputsCounted where
  host _ _ _ h := ⟨h.out, h.cout⟩
  register r _ h := by cases r <;> exact ⟨h.out, h.cout⟩
  err _ h := ⟨h.out, h.cout⟩
  pmemByte _ _ h := ⟨h.out, h.cout⟩
  session _ h := ⟨h.out, h.cout⟩
  frame _ h := ⟨h.out, h.cout⟩
  out _ h := ⟨rfl, h.cout⟩
  container _ h := ⟨h.out, rfl⟩

theorem sessionLegal_kept : KeptByEffects SessionLegal where
  host _ _ _ h := h
  register r _ h := by cases r <;> exact h
  err _ h := h
  pmemByte _ _ h := h
  session hx _ := hx
  frame _ h := h
  out _ h := h
  container _ h := h

theorem samplesInRange_kept : KeptByEffects SamplesInRange where
  host _ _ _ h := h
  register r _ h := by cases r <;> exact h
  err _ h := h
  pmemByte _ _ h := h
  session _ h := h
  frame _ h := h
  out hx _ := hx
  container _ h := h

theorem containerWrite_matches {k : Container} {b : List Byte} (h : IsContainer Config.params k b) (s : State) :
    ContainerMatchesMime (containerWrite b (mimeSelOf k) s) := by
  cases k with
  | pcm => exact ⟨fun e => absurd e (by simp [mimeSelOf]), fun _ => h, fun e => absurd e (by simp [mimeSelOf])⟩
  | compressed => exact ⟨fun e => absurd e (by simp [mimeSelOf]), fun e => absurd e (by simp [mimeSelOf]), fun _ => h⟩

theorem containerMatchesMime_kept : KeptByEffects ContainerMatchesMime where
  host _ _ _ h := ⟨h.none, h.pcm, h.compressed⟩
  register r _ h := by cases r <;> exact ⟨h.none, h.pcm, h.compressed⟩
  err _ h := ⟨h.none, h.pcm, h.compressed⟩
  pmemByte _ _ h := ⟨h.none, h.pcm, h.compressed⟩
  session _ h := ⟨h.none, h.pcm, h.compressed⟩
  frame _ h := ⟨h.none, h.pcm, h.compressed⟩
  out _ h := ⟨h.none, h.pcm, h.compressed⟩
  container hb _ := containerWrite_matches hb _

/-- Settles O57: each of the seven parts is kept by every elementary effect of a step, so by the step. -/
theorem stepKeepsTheInvariant : Obligations.StepKeepsTheInvariant := fun _ _ h ht =>
  { memory := memoryCanonical_kept.of_step h.memory ht
    status := statusLegal_kept.of_step h.status ht
    buffer := frameBufferLegal_kept.of_step h.buffer ht
    outputs := outputsCounted_kept.of_step h.outputs ht
    session := sessionLegal_kept.of_step h.session ht
    samples := samplesInRange_kept.of_step h.samples ht
    container := containerMatchesMime_kept.of_step h.container ht }

end Sys2Proof.Machine
end

section
/-! SUPPORT. Aligned word accesses to the register window, the registers before and after a write, and the scope's
obligations on register reads and writes. -/

namespace Sys2Proof.Machine

variable {s : State} {a v : Word} {rest : List HostAccess}

/-! ## The step on a word access to the register window -/

/-- A word read in the register window reports the window's word. -/
theorem step_readWord (hlt : a.toNat < 0x1000) (hal : a.toNat % 4 = 0) (hq : s.hostQueue = .read a .word :: rest) :
    step s = .next { s with hostQueue := rest, hostReads := readWindow a.toNat s :: s.hostReads } := by
  rw [step_read hq ((formLegal_iff_of_lt hlt).2 ⟨rfl, hal⟩), hostRead, regionOf_registers hlt]
  rfl

/-- A word written in the register window, but to CMD, is written to the window's register. -/
theorem step_writeWord (hlt : a.toNat < 0x1000) (hal : a.toNat % 4 = 0) (h0 : a.toNat ≠ 0)
    (hq : s.hostQueue = .write a .word v :: rest) :
    step s = .next (writeWindow a.toNat v { s with hostQueue := rest }) := by
  rw [step_write hq ((formLegal_iff_of_lt hlt).2 ⟨rfl, hal⟩) h0, hostWrite, regionOf_registers hlt]

/-! ## The register map (10_state R23) -/

theorem regOffset_of_regAt {off : Nat} {r : Reg} (h : regAt off = some r) : regOffset r = off := by
  simpa using List.find?_some h

theorem registerTable_spec : ∀ p ∈ registerTable, p.1.toNat < 0x1000 ∧ p.1.toNat % 4 = 0 ∧
    regAt p.1.toNat = some p.2 := by decide

theorem rwTable_spec : ∀ p ∈ rwTable, (p.1, p.2.1) ∈ registerTable ∧ p.1.toNat ≠ 0 := by decide

theorem readWindow_of_regAt {off : Nat} {r : Reg} (h : regAt off = some r) (s : State) :
    readWindow off s = readReg r s := by rw [readWindow, h]

theorem writeWindow_of_regAt {off : Nat} {r : Reg} (h : regAt off = some r) (v : Word) (s : State) :
    writeWindow off v s = writeReg r v s := by rw [writeWindow, h]

/-- From 0x48 on every offset is reserved (R41). -/
theorem regAt_eq_none {off : Nat} (h : 0x48 ≤ off) : regAt off = none := by
  refine Option.eq_none_iff_forall_ne_some.2 fun r hr => ?_
  have hlt : regOffset r < 0x48 := by cases r <;> decide
  have := regOffset_of_regAt hr
  omega

/-- STATUS and the result registers ignore writes (R41). -/
theorem writeReg_of_readOnly {r : Reg} (h : regOffset r = 4 ∨ 0x30 ≤ regOffset r) (v : Word) (s : State) :
    writeReg r v s = s := by
  cases r with
  | status | flen | outLenLo | outLenHi | coutLenLo | coutLenHi | mimeSel => rfl
  | cmd | cfgVersion | cfgLbr | cfgSampleRate | cfgRepeat | cfgSampleFmt | cfgContainer | plen | argOff | argLen
  | argIdx => exact absurd h (by decide)

theorem writeWindow_of_readOnly {off : Nat} (h : off = 4 ∨ 0x30 ≤ off) (v : Word) (s : State) :
    writeWindow off v s = s := by
  cases hr : regAt off with
  | none => rw [writeWindow, hr]
  | some r =>
    rw [writeWindow_of_regAt hr]
    exact writeReg_of_readOnly (by rwa [regOffset_of_regAt hr]) v s

/-! ## A register after a write -/

/-- A register `n` bits wide reads as the low `n` bits of the word written to it. -/
theorem setWidth_low_bits (v : Word) {n : Nat} (h : n ≤ 32) :
    (v.extractLsb' 0 n).setWidth 32 = v &&& BitVec.ofNat 32 (2 ^ n - 1) := by
  have hp : 2 ^ n ≤ 2 ^ 32 := Nat.pow_le_pow_right (by decide) h
  have hpos := Nat.two_pow_pos n
  apply BitVec.eq_of_toNat_eq
  rw [BitVec.toNat_and, BitVec.toNat_ofNat, Nat.mod_eq_of_lt (by omega), Nat.and_two_pow_sub_one_eq_mod,
    BitVec.toNat_setWidth, BitVec.extractLsb'_toNat, Nat.shiftRight_zero, Nat.mod_eq_of_lt]
  have := Nat.mod_lt v.toNat hpos
  omega

/-- Each RW register reads back as the used bits of what is written. -/
theorem readReg_writeReg_self {off : Word} {r : Reg} {mask : Word} (h : (off, r, mask) ∈ rwTable) (v : Word)
    (s : State) : readReg r (writeReg r v s) = v &&& mask := by
  have full : v = v &&& 0xFFFFFFFF#32 := (BitVec.and_allOnes (x := v)).symm
  simp only [rwTable, List.mem_cons, Prod.mk.injEq, List.not_mem_nil, or_false] at h
  obtain ⟨-, rfl, rfl⟩ | ⟨-, rfl, rfl⟩ | ⟨-, rfl, rfl⟩ | ⟨-, rfl, rfl⟩ | ⟨-, rfl, rfl⟩ | ⟨-, rfl, rfl⟩ |
    ⟨-, rfl, rfl⟩ | ⟨-, rfl, rfl⟩ | ⟨-, rfl, rfl⟩ | ⟨-, rfl, rfl⟩ := h
  · exact setWidth_low_bits v (n := 8) (by decide)
  · exact setWidth_low_bits v (n := 1) (by decide)
  · exact full
  · exact full
  · exact setWidth_low_bits v (n := 8) (by decide)
  · exact setWidth_low_bits v (n := 8) (by decide)
  · exact full
  · exact full
  · exact full
  · exact full

/-- No register write shows in another register. -/
theorem readReg_writeReg_of_ne {r r' : Reg} (h : r' ≠ r) (v : Word) (s : State) :
    readReg r' (writeReg r v s) = readReg r' s := by
  cases r with
  | cmd | status | flen | outLenLo | outLenHi | coutLenLo | coutLenHi | mimeSel => rfl
  | cfgVersion => cases r' with
    | cfgVersion => exact absurd rfl h
    | _ => rfl
  | cfgLbr => cases r' with
    | cfgLbr => exact absurd rfl h
    | _ => rfl
  | cfgSampleRate => cases r' with
    | cfgSampleRate => exact absurd rfl h
    | _ => rfl
  | cfgRepeat => cases r' with
    | cfgRepeat => exact absurd rfl h
    | _ => rfl
  | cfgSampleFmt => cases r' with
    | cfgSampleFmt => exact absurd rfl h
    | _ => rfl
  | cfgContainer => cases r' with
    | cfgContainer => exact absurd rfl h
    | _ => rfl
  | plen => cases r' with
    | plen => exact absurd rfl h
    | _ => rfl
  | argOff => cases r' with
    | argOff => exact absurd rfl h
    | _ => rfl
  | argLen => cases r' with
    | argLen => exact absurd rfl h
    | _ => rfl
  | argIdx => cases r' with
    | argIdx => exact absurd rfl h
    | _ => rfl

/-! ## What the read-only registers read as (10_state R35 to R40) -/

/-- The ERR field lies below bit 8, so the two fields of STATUS add up. -/
theorem statusWord_toNat (s : State) :
    (statusWord s).toNat = s.regs.err.toNat + (if s.session.valid then 256 else 0) := by
  have herr := s.regs.err.isLt
  rw [statusWord, BitVec.toNat_or, BitVec.toNat_setWidth_of_le (by decide)]
  cases s.session.valid with
  | false => simp
  | true =>
    calc s.regs.err.toNat ||| 2 ^ 8 * 1 = 2 ^ 8 * 1 ||| s.regs.err.toNat := Nat.or_comm _ _
      _ = 2 ^ 8 * 1 + s.regs.err.toNat := (Nat.two_pow_add_eq_or_of_lt herr 1).symm
      _ = s.regs.err.toNat + 256 := Nat.add_comm _ _

/-- The two halves of a 64-bit count make the count. -/
theorem halves_toNat (x : BitVec 64) :
    (x.extractLsb' 32 32).toNat * 2 ^ 32 + (x.extractLsb' 0 32).toNat = x.toNat := by
  have := x.isLt
  rw [BitVec.extractLsb'_toNat, BitVec.extractLsb'_toNat, Nat.shiftRight_zero, Nat.shiftRight_eq_div_pow]
  omega

/-! ## The obligations -/

/-- Settles O13: the register at the offset takes its used bits, and the write is one of `regs` alone. -/
theorem rwRegisterWriteKeepsTheUsedBits : Obligations.RwRegisterWriteKeepsTheUsedBits := by
  intro s off r mask v rest hmem hq
  obtain ⟨hreg, h0⟩ := rwTable_spec _ hmem
  obtain ⟨hlt, hal, hr⟩ := registerTable_spec _ hreg
  refine ⟨writeReg r v { s with hostQueue := rest }, ?_, readReg_writeReg_self hmem v _, fun r' hne => ?_, ?_⟩
  · rw [step_writeWord hlt hal h0 hq, writeWindow_of_regAt hr]
  · exact (readReg_writeReg_of_ne hne v _).trans (by cases r' <;> rfl)
  · obtain ⟨g, hg, -⟩ := writeReg_eq r v { s with hostQueue := rest }
    rw [hg]

/-- Settles O16: such a write meets no RW register, and such a read meets no register. -/
theorem reservedAndReadOnlyWordsIgnoreWrites : Obligations.ReservedAndReadOnlyWordsIgnoreWrites := by
  intro s a v rest hlt hal
  refine ⟨fun hro hq => ?_, fun hres hq => ?_⟩
  · rw [step_writeWord hlt hal (by omega) hq, writeWindow_of_readOnly hro]
  · rw [step_readWord hlt hal hq, readWindow, regAt_eq_none hres]

/-- Settles O14: the window's word at a register's offset is the register's. -/
theorem registerReadReportsTheRegister : Obligations.RegisterReadReportsTheRegister := by
  intro s off r rest hmem hq
  obtain ⟨hlt, hal, hr⟩ := registerTable_spec _ hmem
  rw [step_readWord hlt hal hq, readWindow_of_regAt hr]

/-- Settles O15. -/
theorem readOnlyRegistersReadTheirFields : Obligations.ReadOnlyRegistersReadTheirFields := fun s =>
  ⟨statusWord_toNat s, rfl, BitVec.toNat_setWidth_of_le (by decide), BitVec.toNat_setWidth_of_le (by decide),
    halves_toNat s.regs.outLen, halves_toNat s.regs.coutLen⟩

end Sys2Proof.Machine
end

section
/-! SUPPORT. What a CMD write runs, which commands touch the session and the staging registers, and the scope's
obligations on the two. -/

namespace Sys2Proof.Machine

variable {s t : State}

/-! ## The command a CMD write runs -/

theorem decodeWord_encode (i : Instr) : decodeWord (encode i) = .ok i := by cases i <;> decide

/-- The assigned opcodes are those of the command words (30_encoding R83). -/
theorem opcodeMap_eq_some {op : Byte} {i : Instr} (h : opcodeMap op = some i) : op = opField (encode i) := by
  unfold opcodeMap at h
  split_ifs at h with h₁ h₂ h₃ h₄ h₅ <;> cases h <;> assumption

/-- A word is its RSV field above its OP field (30_encoding R82). -/
theorem word_eq_fields (w : Word) : w = rsvField w ++ opField w := by
  apply BitVec.eq_of_toNat_eq
  have := w.isLt
  rw [rsvField, opField, BitVec.toNat_append, ← Nat.shiftLeft_add_eq_or_of_lt (BitVec.isLt _), BitVec.extractLsb'_toNat,
    BitVec.extractLsb'_toNat, Nat.shiftRight_zero, Nat.shiftLeft_eq, Nat.shiftRight_eq_div_pow]
  omega

/-- Only a command's own word decodes to it (30_encoding R83, R85). -/
theorem eq_encode_of_decodeWord {w : Word} {i : Instr} (h : decodeWord w = .ok i) : w = encode i := by
  unfold decodeWord at h
  split_ifs at h with hrsv
  split at h
  · next j hj =>
    obtain rfl : j = i := by simpa using h
    rw [word_eq_fields w, hrsv, opcodeMap_eq_some hj]
    cases j <;> rfl
  · cases h

theorem runCommand_of_decodeWord {w : Word} {i : Instr} (h : decodeWord w = .ok i) (s : State) :
    runCommand w s = exec i s := by rw [runCommand, h]

/-- Settles O4. -/
theorem cmdWriteRunsTheDecodedCommand : Obligations.CmdWriteRunsTheDecodedCommand := by
  intro s w i rest hq hw
  rw [step_cmdWrite hq, runCommand_of_decodeWord hw]

/-- The access `withFetchWord` places is the CMD write of the word. -/
theorem withFetchWord_hostQueue (s : State) (w : Word) :
    (s.withFetchWord 32 w.toNat).hostQueue = .write 0 .word w :: s.hostQueue := by
  simp [State.withFetchWord, cmdWrite, regOffset, Nat.mod_eq_of_lt w.isLt]

/-- Settles O5: the placed access is a CMD write of the command's own word, and taking it gives the state back. -/
theorem placedCommandRunsNext : Obligations.PlacedCommandRunsNext := by
  intro s i
  rw [step_cmdWrite (withFetchWord_hostQueue s (encode i)), runCommand_of_decodeWord (decodeWord_encode i)]
  rfl

/-! ## The staging registers (10_state R42) -/

/-- The six staging registers. -/
structure Staging where
  ver : BitVec 8
  lbr : BitVec 1
  rate : BitVec 32
  rep : BitVec 32
  sfmt : BitVec 8
  cfmt : BitVec 8

/-- The state with other values in the staging registers. -/
def Staging.put (g : Staging) (s : State) : State :=
  { s with
    regs.cfgVersion := g.ver, regs.cfgLbr := g.lbr, regs.cfgSampleRate := g.rate, regs.cfgRepeat := g.rep,
    regs.cfgSampleFmt := g.sfmt, regs.cfgContainer := g.cfmt }

variable (g : Staging)

/-- The outcome of a meaning of a command with other values in the staging registers. -/
def Staging.putOutcome (g : Staging) : Host.Outcome State Fault Refusal → Host.Outcome State Fault Refusal
  | .next t => .next (g.put t)
  | .fault r => .fault r
  | .refused r => .refused r

/-! Both sides are the same conditional: what a meaning asks and reads is not in the staging registers, and what it
writes is beside them. -/

theorem execMkctl_put (s : State) : execMkctl (g.put s) = g.putOutcome (execMkctl s) := by
  simp only [execMkctl, apply_ite g.putOutcome]
  rfl

theorem execMkdata_put (s : State) : execMkdata (g.put s) = g.putOutcome (execMkdata s) := by
  simp only [execMkdata, apply_ite g.putOutcome]
  rfl

theorem execEncode_put (s : State) : execEncode (g.put s) = g.putOutcome (execEncode s) := by
  simp only [execEncode, apply_ite g.putOutcome]
  rfl

theorem execEnccont_put (s : State) : execEnccont (g.put s) = g.putOutcome (execEnccont s) := by
  simp only [execEnccont, apply_ite g.putOutcome]
  rfl

/-- A command but CONFIGURE neither reads nor writes the staging registers. -/
theorem exec_put {i : Instr} (hi : i ≠ .configure) (s : State) : exec i (g.put s) = g.putOutcome (exec i s) := by
  cases i with
  | configure => exact absurd rfl hi
  | mkctl => exact execMkctl_put g s
  | mkdata => exact execMkdata_put g s
  | encode => exact execEncode_put g s
  | enccont => exact execEnccont_put g s

/-- Settles O48. -/
theorem stagingRegistersReachOnlyConfigure : Obligations.StagingRegistersReachOnlyConfigure := by
  intro i s t ver lbr rate rep sfmt cfmt hi ht
  refine (exec_put ⟨ver, lbr, rate, rep, sfmt, cfmt⟩ hi s).trans ?_
  rw [ht]
  rfl

/-! ## The session -/

theorem exec_session {i : Instr} (hi : i ≠ .configure) (h : exec i s = .next t) : t.session = s.session := by
  cases i with
  | configure => exact absurd rfl hi
  | mkctl => obtain ⟨e, rfl⟩ | ⟨-, -, rfl⟩ := execMkctl_cases h <;> rfl
  | mkdata => obtain ⟨e, rfl⟩ | ⟨-, -, -, -, rfl⟩ := execMkdata_cases h <;> rfl
  | encode => obtain ⟨e, rfl⟩ | ⟨-, -, rfl⟩ := execEncode_cases h <;> rfl
  | enccont => obtain ⟨e, rfl⟩ | ⟨-, -, -, rfl⟩ := execEnccont_cases h <;> rfl

theorem hostRead_session (a : Nat) (w : Width) (s : State) : (hostRead a w s).session = s.session := by
  obtain ⟨v, d, h⟩ := hostRead_eq a w s
  rw [h]

theorem hostWrite_session (a : Nat) (w : Width) (v : Word) (s : State) :
    (hostWrite a w v s).session = s.session := by
  obtain ⟨-, g, h, -⟩ | ⟨-, h⟩ := hostWrite_cases a w v s
  · rw [h]
  · obtain ⟨m, hm⟩ := writeHostBytes_eq a (writtenBytes w v) s
    rw [h, hm]

/-- A step keeps the session, unless it runs the CMD write of CONFIGURE's word. -/
theorem step_session (h : step s = .next t) : t.session = s.session ∨
    ∃ rest, s.hostQueue = .write 0 .word 0x00000001 :: rest ∧ execConfigure { s with hostQueue := rest } = .next t := by
  obtain ⟨-, rfl⟩ | ⟨addr, w, rest, -, -, rfl⟩ | ⟨v, rest, hq, hv⟩ | ⟨addr, w, v, rest, -, -, -, rfl⟩ := step_cases h
  · exact .inl rfl
  · exact .inl (hostRead_session _ _ _)
  · obtain ⟨i, hi, hexec⟩ | rfl := runCommand_cases hv
    · by_cases hc : i = .configure
      · subst hc
        exact .inr ⟨rest, by rw [hq, eq_encode_of_decodeWord hi]; rfl, hexec⟩
      · exact .inl (exec_session (s := { s with hostQueue := rest }) hc hexec)
    · exact .inl rfl
  · exact .inl (hostWrite_session _ _ _ _)

theorem versionOfCode_eq_some {code : BitVec 8} {v : Version} (h : versionOfCode code = some v) :
    code.toNat = 1 ∨ code.toNat = 2 := by
  unfold versionOfCode at h
  split_ifs at h with h₁ h₂
  · exact .inl (by rw [h₁]; rfl)
  · exact .inr (by rw [h₂]; rfl)

theorem sampleFmtOfCode_eq_some {code : BitVec 8} {f : SampleFmt} (h : sampleFmtOfCode code = some f) :
    code.toNat ≤ 1 := by
  unfold sampleFmtOfCode at h
  split_ifs at h with h₁ h₂
  · simp [h₁]
  · simp [h₂]

theorem containerOfCode_eq_some {code : BitVec 8} {k : Container} (h : containerOfCode code = some k) :
    code.toNat ≤ 1 := by
  unfold containerOfCode at h
  split_ifs at h with h₁ h₂
  · simp [h₁]
  · simp [h₂]

theorem firstError_configure (s : State) : firstError 0x00000001 s =
    if Config.params.sampleRateOk s.regs.cfgSampleRate = false then 0x04
    else if s.regs.cfgVersion.toNat ≠ 1 ∧ s.regs.cfgVersion.toNat ≠ 2 then 0x01
    else if 1 < s.regs.cfgSampleFmt.toNat ∨ 1 < s.regs.cfgContainer.toNat then 0x03
    else 0x00 := rfl

/-- A CONFIGURE to which an error of 60_exceptions R234 applies fails: past its four checks none applies. -/
theorem execConfigure_of_firstError (h : firstError 0x00000001 s ≠ 0x00) :
    ∃ e, execConfigure s = .next (failConfigure e s) := by
  unfold execConfigure configureWith
  split_ifs with hrate
  · exact ⟨_, rfl⟩
  split
  · exact ⟨_, rfl⟩
  next v hver =>
  split
  · exact ⟨_, rfl⟩
  next f hfmt =>
  split
  · exact ⟨_, rfl⟩
  next k hcont =>
  refine absurd ?_ h
  have hver := versionOfCode_eq_some hver
  have hfmt := sampleFmtOfCode_eq_some hfmt
  have hcont := containerOfCode_eq_some hcont
  rw [rateOk_eq] at hrate
  rw [firstError_configure, if_neg hrate, if_neg (by omega), if_neg (by omega)]

/-- Settles O49: only CONFIGURE writes the session, and a failing one leaves it invalid. -/
theorem sessionChangesOnlyByConfigure : Obligations.SessionChangesOnlyByConfigure := by
  intro s t h
  obtain hkeep | ⟨rest, hq, hexec⟩ := step_session h
  · exact ⟨fun hne => absurd hkeep hne, fun hinv _ => by rw [hkeep, hinv]⟩
  · refine ⟨fun _ => ⟨rest, hq⟩, fun _ herr => ?_⟩
    obtain ⟨e, he⟩ := execConfigure_of_firstError (s := { s with hostQueue := rest }) herr
    obtain rfl : failConfigure e { s with hostQueue := rest } = t := Host.Outcome.next.inj (he.symm.trans hexec)
    rfl

end Sys2Proof.Machine
end

section
/-! SUPPORT. What a command keeps, that it always ends in a next state, and what it does where nothing stops it; a
command repeated. -/

namespace Sys2Proof.Machine

variable {s t u : State}

/-! ## What a command keeps -/

/-- Settles O47: beside the session, a command writes STATUS.ERR and at most one result. -/
theorem commandsKeepOperandsAndPmem : Obligations.CommandsKeepOperandsAndPmem := by
  intro i s t h
  cases i with
  | configure => obtain ⟨e, rfl⟩ | ⟨x, -, -, -, rfl⟩ := execConfigure_cases h <;> exact ⟨rfl, rfl, rfl, rfl⟩
  | mkctl => obtain ⟨e, rfl⟩ | ⟨-, -, rfl⟩ := execMkctl_cases h <;> exact ⟨rfl, rfl, rfl, rfl⟩
  | mkdata => obtain ⟨e, rfl⟩ | ⟨-, -, -, -, rfl⟩ := execMkdata_cases h <;> exact ⟨rfl, rfl, rfl, rfl⟩
  | encode => obtain ⟨e, rfl⟩ | ⟨-, -, rfl⟩ := execEncode_cases h <;> exact ⟨rfl, rfl, rfl, rfl⟩
  | enccont => obtain ⟨e, rfl⟩ | ⟨-, -, -, rfl⟩ := execEnccont_cases h <;> exact ⟨rfl, rfl, rfl, rfl⟩

/-! ## How a command ends -/

/-- CONFIGURE's verdict depends on no register but its operands': whatever STATUS.ERR and the rest of the state, it is
the same error or the same session. -/
theorem execConfigure_verdict (g : Registers) :
    (∃ e, ∀ s err, s.regs = { g with err := err } → execConfigure s = .next (failConfigure e s)) ∨
    ∃ x, ∀ s err, s.regs = { g with err := err } → execConfigure s = .next (succeed (latchSession x s)) := by
  simp only [execConfigure, configureWith]
  by_cases hrate : rateOk Config.params g.cfgSampleRate = false
  · exact .inl ⟨_, fun s err h => by rw [h, if_pos hrate]⟩
  cases hver : versionOfCode g.cfgVersion with
  | none => exact .inl ⟨_, fun s err h => by simp only [h, if_neg hrate, hver]; rfl⟩
  | some v =>
    cases hfmt : sampleFmtOfCode g.cfgSampleFmt with
    | none => exact .inl ⟨_, fun s err h => by simp only [h, if_neg hrate, hver, hfmt]; rfl⟩
    | some f =>
      cases hcont : containerOfCode g.cfgContainer with
      | none => exact .inl ⟨_, fun s err h => by simp only [h, if_neg hrate, hver, hfmt, hcont]; rfl⟩
      | some k => exact .inr ⟨_, fun s err h => by simp only [h, if_neg hrate, hver, hfmt, hcont]; rfl⟩

/-- Every command ends in a next state (60_exceptions R230). -/
theorem exec_next (i : Instr) (s : State) : ∃ t, exec i s = .next t := by
  cases i with
  | configure => obtain ⟨e, h⟩ | ⟨x, h⟩ := execConfigure_verdict s.regs <;> exact ⟨_, h s s.regs.err rfl⟩
  | mkctl =>
    simp only [exec, execMkctl]
    split_ifs <;> exact ⟨_, rfl⟩
  | mkdata =>
    simp only [exec, execMkdata]
    split_ifs <;> exact ⟨_, rfl⟩
  | encode =>
    simp only [exec, execEncode]
    split_ifs <;> exact ⟨_, rfl⟩
  | enccont =>
    simp only [exec, execEnccont]
    split_ifs <;> exact ⟨_, rfl⟩

/-- A payload that fits PMEM has at most MAX_BLOCKS blocks (20_memory R50, 43_sequencer R173). -/
theorem blockCount_le_maxBlocks {L : Nat} (h : L ≤ Config.params.pmemSize) : ¬ maxBlocks < blockCount L := by
  have := Config.params.pmemSize_max
  rw [maxBlocks_lt_blockCount]
  omega

/-! Where nothing stops a command, it does what its inversion lemma says of a success. -/

theorem execMkctl_eq (hv : s.session.valid = true) (hp : s.regs.plen.toNat ≤ Config.params.pmemSize) :
    execMkctl s = .next (succeed (takeDraw
      (frameWrite (controlFrame Config.params s.session.version (memRead 0 s.regs.plen.toNat s)) s))) := by
  rw [execMkctl, if_neg (by simp [hv]), if_neg (by omega)]

theorem execMkdata_eq (hv : s.session.valid = true) (hl : s.regs.argLen.toNat ≤ 256)
    (hi : s.regs.argIdx.toNat ≤ 0xFFFF)
    (hp : s.regs.argOff.toNat + s.regs.argLen.toNat ≤ Config.params.pmemSize) :
    execMkdata s = .next (succeed (takeDraw (frameWrite (dataFrame Config.params s.session.version
      (memRead s.regs.argOff.toNat s.regs.argLen.toNat s) (s.regs.argIdx.setWidth 16)) s))) := by
  rw [execMkdata, if_neg (by simp [hv]), if_neg (by simpa [blockSize] using hl), if_neg (by omega), if_neg (by omega)]

theorem execEncode_eq (hv : s.session.valid = true) (hp : s.regs.plen.toNat ≤ Config.params.pmemSize) :
    execEncode s = .next (succeed (takeDraw
      (outWrite (encodeSamples Config.params s.session (memRead 0 s.regs.plen.toNat s)) s))) := by
  rw [execEncode, if_neg (by simp [hv]), if_neg (blockCount_le_maxBlocks hp), if_neg (by omega)]

theorem execEnccont_eq (hv : s.session.valid = true) (hp : s.regs.plen.toNat ≤ Config.params.pmemSize)
    (hc : s.session.container = .compressed → s.session.sampleRate = compressedRate) :
    execEnccont s = .next (succeed (takeDraw (containerWrite
      (containerBytes Config.params s.session (memRead 0 s.regs.plen.toNat s))
      (mimeSelOf s.session.container) s))) := by
  rw [execEnccont, if_neg (by simp [hv]), if_neg (blockCount_le_maxBlocks hp), if_neg (by omega),
    if_neg fun ⟨hk, hne⟩ => hne (hc hk)]

/-! ## A command repeated (20_memory R63) -/

/-- A run that raised an error did not succeed. -/
theorem raiseError_err_ne (e : ErrorCode) (s : State) : (raiseError e s).regs.err ≠ 0x00 := code_ne_zero e

/-- A successful CONFIGURE repeated latches the same session again. -/
theorem execConfigure_repeated (ht : execConfigure s = .next t) (hok : t.regs.err = 0x00) :
    execConfigure t = .next t := by
  obtain ⟨e, h⟩ | ⟨x, h⟩ := execConfigure_verdict s.regs
  · obtain rfl := Host.Outcome.next.inj ((h s s.regs.err rfl).symm.trans ht)
    exact absurd hok (raiseError_err_ne e _)
  · obtain rfl := Host.Outcome.next.inj ((h s s.regs.err rfl).symm.trans ht)
    exact h _ codeOk rfl

/-- A command but CONFIGURE finds in `t` the operands and the payload it finds in `s`. -/
structure SameInputs (s t : State) : Prop where
  session : t.session = s.session
  pmem : t.pmem = s.pmem
  plen : t.regs.plen = s.regs.plen
  argOff : t.regs.argOff = s.regs.argOff
  argLen : t.regs.argLen = s.regs.argLen
  argIdx : t.regs.argIdx = s.regs.argIdx

/-- A command but CONFIGURE leaves its own inputs as they were. -/
theorem exec_sameInputs {i : Instr} (hi : i ≠ .configure) (h : exec i s = .next t) : SameInputs s t := by
  obtain ⟨hpmem, -, -, hregs⟩ := commandsKeepOperandsAndPmem i s t h
  exact ⟨exec_session hi h, hpmem, by rw [hregs], by rw [hregs], by rw [hregs], by rw [hregs]⟩

theorem SameInputs.memRead (h : SameInputs s t) {addr n : Nat} (hw : PmemWritten s addr n) :
    memRead addr n t = memRead addr n s := memRead_congr hw fun _ _ => by rw [h.pmem]

/-- The frame just written, written again into a canonical FMEM, changes nothing but the draw number. -/
theorem frameWrite_repeated {f : List Byte} (hm : s.fmem.wf) (ht : t = succeed (takeDraw (frameWrite f s))) :
    succeed (takeDraw (frameWrite f t)) = takeDraw t := by
  subst ht
  simp only [succeed, takeDraw, frameWrite, Memory.writeBytes_writeBytes hm]

theorem execMkctl_repeated (h : SameInputs s t) (hm : s.fmem.wf) (hw : PmemWritten s 0 s.regs.plen.toNat)
    (ht : execMkctl s = .next t) (hok : t.regs.err = 0x00) : execMkctl t = .next (takeDraw t) := by
  obtain ⟨e, rfl⟩ | ⟨hv, hp, heq⟩ := execMkctl_cases ht
  · exact absurd hok (raiseError_err_ne e s)
  · rw [execMkctl_eq (by rwa [h.session]) (by rwa [h.plen]), h.session, h.plen, h.memRead hw,
      frameWrite_repeated hm heq]

theorem execMkdata_repeated (h : SameInputs s t) (hm : s.fmem.wf)
    (hw : PmemWritten s s.regs.argOff.toNat s.regs.argLen.toNat)
    (ht : execMkdata s = .next t) (hok : t.regs.err = 0x00) : execMkdata t = .next (takeDraw t) := by
  obtain ⟨e, rfl⟩ | ⟨hv, hl, hi, hp, heq⟩ := execMkdata_cases ht
  · exact absurd hok (raiseError_err_ne e s)
  · rw [execMkdata_eq (by rwa [h.session]) (by rwa [h.argLen]) (by rwa [h.argIdx]) (by rwa [h.argOff, h.argLen]),
      h.session, h.argOff, h.argLen, h.argIdx, h.memRead hw, frameWrite_repeated hm heq]

theorem execEncode_repeated (h : SameInputs s t) (hw : PmemWritten s 0 s.regs.plen.toNat)
    (ht : execEncode s = .next t) (hok : t.regs.err = 0x00) : execEncode t = .next (takeDraw t) := by
  obtain ⟨e, rfl⟩ | ⟨hv, hp, heq⟩ := execEncode_cases ht
  · exact absurd hok (raiseError_err_ne e s)
  · rw [execEncode_eq (by rwa [h.session]) (by rwa [h.plen]), h.session, h.plen, h.memRead hw, heq]
    rfl

theorem execEnccont_repeated (h : SameInputs s t) (hw : PmemWritten s 0 s.regs.plen.toNat)
    (ht : execEnccont s = .next t) (hok : t.regs.err = 0x00) : execEnccont t = .next (takeDraw t) := by
  obtain ⟨e, rfl⟩ | ⟨hv, hp, hc, heq⟩ := execEnccont_cases ht
  · exact absurd hok (raiseError_err_ne e s)
  · rw [execEnccont_eq (by rwa [h.session]) (by rwa [h.plen]) (by rwa [h.session]), h.session, h.plen,
      h.memRead hw, heq]
    rfl

/-- Any other command, successful with its payload written and run again, writes the same results over themselves: the
second run passes the same checks and reads the same bytes. -/
theorem exec_repeated {i : Instr} (hi : i ≠ .configure) (hm : s.fmem.wf) (hw : OperandsWritten i s)
    (ht : exec i s = .next t) (hok : t.regs.err = 0x00) : exec i t = .next (takeDraw t) := by
  have hsame := exec_sameInputs hi ht
  cases i with
  | configure => exact absurd rfl hi
  | mkctl => exact execMkctl_repeated hsame hm hw ht hok
  | mkdata => exact execMkdata_repeated hsame hm hw ht hok
  | encode => exact execEncode_repeated hsame hw ht hok
  | enccont => exact execEnccont_repeated hsame hw ht hok

/-- Settles O54. -/
theorem repeatedCommandRewritesIdenticalResults : Obligations.RepeatedCommandRewritesIdenticalResults := by
  intro i s t u hm hw ht hok hu
  by_cases hi : i = .configure
  · subst hi
    obtain rfl := Host.Outcome.next.inj ((execConfigure_repeated ht hok).symm.trans hu)
    rfl
  · obtain rfl := Host.Outcome.next.inj ((exec_repeated hi hm hw ht hok).symm.trans hu)
    rfl

end Sys2Proof.Machine
end

section
/-! SUPPORT. The family on the two memories: the memories and the frame buffer under a step, which accesses have a step,
and what a host read or write outside the register window does. -/

namespace Sys2Proof.Machine

variable {s t : State} {a : Nat} {w : Width} {rest : List HostAccess}

/-! ## The memories and the frame buffer under a step -/

/-- Settles O55: a PMEM byte and a frame are the only effects on a memory, and each is written in range. -/
theorem stepKeepsMemoryCanonical : Obligations.StepKeepsMemoryCanonical := fun _ _ => memoryCanonical_kept.of_step

/-- Settles O56: only a frame write touches FMEM or FLEN, and the formatters make well-formed frames. -/
theorem stepKeepsTheFrameBufferLegal : Obligations.StepKeepsTheFrameBufferLegal :=
  fun _ _ => frameBufferLegal_kept.of_step

/-! ## Which accesses have a step (20_memory R56, R57) -/

theorem runCommand_next (v : Word) (s : State) : ∃ t, runCommand v s = .next t := by
  unfold runCommand
  split
  · exact exec_next _ s
  · exact ⟨_, rfl⟩

theorem step_next_of_safe (h : Safe s) : ∃ t, step s = .next t := by
  match hq : s.hostQueue with
  | [] => exact ⟨s, by rw [step, nextAccess, hq]⟩
  | .read addr w :: rest => exact ⟨_, step_read hq (h _ _ hq)⟩
  | .write addr w v :: rest =>
    have hf : FormLegal addr.toNat w.bytes := h _ _ hq
    by_cases h0 : addr.toNat = 0
    · obtain ⟨rfl, -⟩ := (formLegal_iff_of_lt (by omega)).1 hf
      obtain rfl : addr = 0 := BitVec.eq_of_toNat_eq h0
      obtain ⟨t, ht⟩ := runCommand_next v { s with hostQueue := rest }
      exact ⟨t, (step_cmdWrite hq).trans ht⟩
    · exact ⟨_, step_write hq hf h0⟩

/-- An access the form check refuses is the step's refusal, whether it is a read or a write. -/
theorem step_refused {acc : HostAccess} (hq : s.hostQueue = acc :: rest) :
    ∃ w, (accessSpan acc).2 = w.bytes ∧
      ∀ r, accessRefusal (accessSpan acc).1 w = some r → step s = .refused r := by
  cases acc with
  | read addr w =>
    refine ⟨w, rfl, fun r hr => ?_⟩
    change accessRefusal addr.toNat w = some r at hr
    simp only [step, nextAccess, hq, hostAccess, hr]
  | write addr w v =>
    refine ⟨w, rfl, fun r hr => ?_⟩
    change accessRefusal addr.toNat w = some r at hr
    simp only [step, nextAccess, hq, hostAccess, hr]

theorem step_refused_of_not_safe (h : ¬ Safe s) : ∃ r, step s = .refused r := by
  simp only [Safe, not_forall] at h
  obtain ⟨acc, rest, hq, hform⟩ := h
  obtain ⟨w, hw, refused⟩ := step_refused hq
  rw [hw, ← accessRefusal_none_iff] at hform
  obtain ⟨r, hr⟩ := Option.ne_none_iff_exists'.1 hform
  exact ⟨r, refused r hr⟩

/-- Settles O8: a step from a safe state answers a next state, any other step refuses. -/
theorem stepAnswersExactlyOnLegalForms : Obligations.StepAnswersExactlyOnLegalForms := by
  intro s
  by_cases h : Safe s
  · obtain ⟨t, ht⟩ := step_next_of_safe h
    exact ⟨⟨fun _ => h, fun _ => ⟨t, ht⟩⟩, fun f => by simp [ht]⟩
  · obtain ⟨r, hr⟩ := step_refused_of_not_safe h
    exact ⟨⟨fun ⟨t, ht⟩ => by simp [hr] at ht, fun hs => absurd hs h⟩, fun f => by simp [hr]⟩

/-- Settles O9: the form check names the refusal by the side of 0x1000 the address lies on. -/
theorem forbiddenAccessFormsAreRefused : Obligations.ForbiddenAccessFormsAreRefused := by
  intro s acc rest hq
  obtain ⟨w, hw, refused⟩ := step_refused hq
  rw [hw]
  refine ⟨fun hlt hform => refused _ ?_, fun hge hform => refused _ ((accessRefusal_of_ge hge).2 hform)⟩
  rw [accessRefusal_of_lt hlt, if_neg]
  rintro ⟨rfl, hal⟩
  exact hform ⟨rfl, hal⟩

/-! ## Addresses of the two memories -/

theorem width_bytes_dvd_four (w : Width) : w.bytes ∣ 4 := by cases w <;> decide

theorem width_bytes_le_four (w : Width) : w.bytes ≤ 4 := Nat.le_of_dvd (by decide) (width_bytes_dvd_four w)

theorem formLegal_of_aligned (ha : 0x1000 ≤ a) (h : a % w.bytes = 0) : FormLegal a w.bytes :=
  ⟨fun hlt => by omega, fun _ => h⟩

/-- An offset aligned in a window is aligned in the address space. -/
theorem aligned_base_add {base off : Nat} (hb : 4 ∣ base) (h : off % w.bytes = 0) : (base + off) % w.bytes = 0 :=
  Nat.mod_eq_zero_of_dvd (dvd_add ((width_bytes_dvd_four w).trans hb) (Nat.dvd_of_mod_eq_zero h))

/-- The address lies outside PMEM. -/
def OutsidePmem (a : Nat) : Prop := a < 0x01000000 ∨ 0x01000000 + Config.params.pmemSize ≤ a

/-- A legal access that starts outside PMEM touches no PMEM byte: an aligned one does not cross into PMEM. -/
theorem outsidePmem_of_formLegal (hf : FormLegal a w.bytes) (ha : OutsidePmem a) {k : Nat} (hk : k < w.bytes) :
    OutsidePmem (a + k) := by
  by_contra hin
  unfold OutsidePmem at ha hin
  have hal : a % w.bytes = 0 := hf.2 ⟨k, hk, .inr (by omega)⟩
  cases w <;> simp only [Width.bytes] at hal hk <;> omega

/-! ## Host writes to the memories -/

/-- A legal write outside the register window writes its bytes. -/
theorem step_writeMemory {addr v : Word} (hq : s.hostQueue = .write addr w v :: rest) (ha : 0x1000 ≤ addr.toNat)
    (hf : FormLegal addr.toNat w.bytes) :
    step s = .next (writeHostBytes addr.toNat (writtenBytes w v) { s with hostQueue := rest }) := by
  rw [step_write hq hf (by omega)]
  obtain ⟨hlt, -⟩ | ⟨-, h⟩ := hostWrite_cases addr.toNat w v { s with hostQueue := rest }
  · omega
  · rw [h]

@[simp] theorem writtenBytes_length (w : Width) (v : Word) : (writtenBytes w v).length = w.bytes := by
  simp [writtenBytes, width_bytes_le_four w]

theorem writtenBytes_get (v : Word) {k : Nat} (hk : k < w.bytes) :
    (writtenBytes w v)[k]? = some (BitVec.ofNat 8 (v.toNat / 2 ^ (8 * k))) := by
  rw [writtenBytes, List.getElem?_take_of_lt hk, le32_get v (hk.trans_le (width_bytes_le_four w))]

theorem writeHostByte_pmem {off : Nat} (h : off < Config.params.pmemSize) (b : Byte) (s : State) :
    writeHostByte (0x01000000 + off) b s = { s with pmem := s.pmem.set off b } := by
  rw [writeHostByte, regionOf_pmem h]

theorem writeHostByte_of_outside (h : OutsidePmem a) (b : Byte) (s : State) : writeHostByte a b s = s := by
  unfold writeHostByte
  split
  · next off hr =>
    obtain ⟨rfl, hoff⟩ := regionOf_eq_pmem hr
    unfold OutsidePmem at h
    omega
  all_goals rfl

/-- Inside PMEM the host's write is the memory's. -/
theorem writeHostBytes_pmem {off : Nat} {bs : List Byte} (h : off + bs.length ≤ Config.params.pmemSize) (s : State) :
    writeHostBytes (0x01000000 + off) bs s = { s with pmem := s.pmem.writeBytes off bs } := by
  induction bs generalizing off s with
  | nil => rfl
  | cons b bs ih =>
    rw [List.length_cons] at h
    rw [writeHostBytes, writeHostByte_pmem (by omega), Nat.add_assoc, ih (by omega)]
    rfl

theorem writeHostBytes_of_outside {bs : List Byte} (h : ∀ k, k < bs.length → OutsidePmem (a + k)) (s : State) :
    writeHostBytes a bs s = s := by
  induction bs generalizing a s with
  | nil => rfl
  | cons b bs ih =>
    rw [writeHostBytes, writeHostByte_of_outside (a := a) (h 0 (by simp))]
    refine ih (fun k hk => ?_) s
    rw [Nat.add_right_comm]
    exact h (k + 1) (by simpa using hk)

/-- Settles O17: the step is one run of bytes written into PMEM. -/
theorem pmemWriteStoresLittleEndian : Obligations.PmemWriteStoresLittleEndian := by
  intro s off w v rest hin hal hq
  have hmax := Config.params.pmemSize_max
  have haddr : (BitVec.ofNat 32 (0x01000000 + off)).toNat = 0x01000000 + off := Nat.mod_eq_of_lt (by omega)
  have hstep := step_writeMemory hq (by omega)
    (by rw [haddr]; exact formLegal_of_aligned (by omega) (aligned_base_add (by decide) hal))
  rw [haddr, writeHostBytes_pmem (by simpa using hin)] at hstep
  refine ⟨_, hstep, fun k hk => ?_, fun x hx => ?_, rfl⟩
  · rw [Memory.get_writeBytes, if_pos (by simpa using hk), Nat.add_sub_cancel_left, writtenBytes_get v hk]
  · rw [Memory.get_writeBytes, if_neg (by rw [writtenBytes_length]; omega)]

/-- Settles O19: no byte of the write lies in PMEM. -/
theorem writesOutsidePmemAreIgnored : Obligations.WritesOutsidePmemAreIgnored := by
  intro s a w v rest hq ha hf hout
  rw [step_writeMemory hq ha hf, writeHostBytes_of_outside fun k hk => hout k (writtenBytes_length w v ▸ hk)]

/-! ## Host reads -/

/-- A step whose access is a read performs the read. -/
theorem step_read_inv {addr : Word} (hq : s.hostQueue = .read addr w :: rest) (h : step s = .next t) :
    t = hostRead addr.toNat w { s with hostQueue := rest } := by
  obtain ⟨hq', -⟩ | ⟨addr', w', rest', hq', -, ht⟩ | ⟨v, rest', hq', -⟩ | ⟨addr', w', v, rest', hq', -⟩ := step_cases h
  · simp [hq] at hq'
  · rw [hq] at hq'
    obtain ⟨⟨rfl, rfl⟩, rfl⟩ : (addr = addr' ∧ w = w') ∧ rest = rest' := by simpa using hq'
    exact ht
  · simp [hq] at hq'
  · simp [hq] at hq'

/-- Settles O21. -/
theorem readsHaveNoSideEffect : Obligations.ReadsHaveNoSideEffect := by
  intro s t a w rest hq ht
  obtain ⟨v, d, hread⟩ := hostRead_eq a.toNat w { s with hostQueue := rest }
  exact ⟨v, by rw [step_read_inv hq ht, hread]⟩

/-- A legal read outside the register window reports the word of its bytes and takes a draw. -/
theorem step_readMemory {addr : Word} (hq : s.hostQueue = .read addr w :: rest) (ha : 0x1000 ≤ addr.toNat)
    (hf : FormLegal addr.toNat w.bytes) :
    step s = .next { s with
      hostQueue := rest
      hostReads := wordOfBytes ((touched addr.toNat w).map (readHostByte s)) :: s.hostReads
      draws := s.draws + 1 } := by
  rw [step_read hq hf]
  unfold hostRead
  split
  · next off hr => exact absurd hr (regionOf_ne_registers ha off)
  all_goals rfl

theorem touched_map_length (f : Nat → Byte) (a : Nat) (w : Width) : ((touched a w).map f).length = w.bytes := by
  simp [touched]

theorem touched_map_get (f : Nat → Byte) (a : Nat) {k : Nat} (hk : k < w.bytes) :
    ((touched a w).map f)[k]? = some (f (a + k)) := by
  simp [touched, hk]

/-- The word of the bytes of a memory, a free value for each unwritten one, reads them back. -/
theorem readsBytes_wordOfBytes {f : Nat → Byte} {m : Memory} {base off d : Nat}
    (h : ∀ k, k < w.bytes → f (a + k) = (m.get (off + k)).getD (Config.freeByte d (base + (off + k)))) :
    ReadsBytes (wordOfBytes ((touched a w).map f)) w.bytes m base off d := by
  have hlen := (touched_map_length f a w).trans_le (width_bytes_le_four w)
  have byte : ∀ k, k < w.bytes → BitVec.ofNat 8 ((wordOfBytes ((touched a w).map f)).toNat / 2 ^ (8 * k))
      = (m.get (off + k)).getD (Config.freeByte d (base + (off + k))) := fun k hk =>
    (wordOfBytes_byte hlen (touched_map_get f a hk)).trans (h k hk)
  refine ⟨?_, fun k hk => ⟨fun b hb => ?_, fun hb => ?_⟩⟩
  · simpa only [touched_map_length] using wordOfBytes_toNat_lt _ hlen
  · rw [byte k hk, hb, Option.getD_some]
  · rw [byte k hk, hb, Option.getD_none]

theorem readHostByte_pmem {off : Nat} (h : off < Config.params.pmemSize) (s : State) :
    readHostByte s (0x01000000 + off) = readPmem s off := by rw [readHostByte, regionOf_pmem h]

theorem readHostByte_fmem {off : Nat} (h : off < 272) (s : State) :
    readHostByte s (0x1000 + off) = readFmem s off := by rw [readHostByte, regionOf_fmem h]

theorem readHostByte_reserved (h : 0x1110 ≤ a) (hout : OutsidePmem a) (s : State) : readHostByte s a = 0 := by
  rw [readHostByte, regionOf_reserved h hout]

/-- Settles O18: in either window the host's bytes are the memory's. -/
theorem memoryReadReportsLittleEndian : Obligations.MemoryReadReportsLittleEndian := by
  intro s off w rest hal
  have hmax := Config.params.pmemSize_max
  refine ⟨fun hin hq => ?_, fun hin hq => ?_⟩
  · have haddr : (BitVec.ofNat 32 (0x01000000 + off)).toNat = 0x01000000 + off := Nat.mod_eq_of_lt (by omega)
    have hf : FormLegal (0x01000000 + off) w.bytes :=
      formLegal_of_aligned (by omega) (aligned_base_add (by decide) hal)
    refine ⟨_, step_readMemory hq (by omega) (haddr.symm ▸ hf), ?_⟩
    rw [haddr]
    exact readsBytes_wordOfBytes fun k hk => by rw [Nat.add_assoc, readHostByte_pmem (by omega)]; rfl
  · have haddr : (BitVec.ofNat 32 (0x1000 + off)).toNat = 0x1000 + off := Nat.mod_eq_of_lt (by omega)
    have hf : FormLegal (0x1000 + off) w.bytes :=
      formLegal_of_aligned (by omega) (aligned_base_add (by decide) hal)
    refine ⟨_, step_readMemory hq (by omega) (haddr.symm ▸ hf), ?_⟩
    rw [haddr]
    exact readsBytes_wordOfBytes fun k hk => by rw [Nat.add_assoc, readHostByte_fmem (by omega)]; rfl

theorem wordOfBytes_replicate_zero (n : Nat) : wordOfBytes (List.replicate n 0) = 0 := by
  induction n with
  | zero => rfl
  | succ n ih =>
    rw [List.replicate_succ, wordOfBytes, ih]
    rfl

/-- Settles O20: each byte reads 0, and an access that touches no memory byte is legal at any alignment. -/
theorem reservedBytesReadZero : Obligations.ReservedBytesReadZero := by
  intro s a w rest hq ha hout
  have hf : FormLegal a.toNat w.bytes := by
    refine ⟨fun hlt => by omega, fun ⟨k, hk, hmem⟩ => ?_⟩
    have := hout k hk
    omega
  have hzero : (touched a.toNat w).map (readHostByte s) = List.replicate w.bytes 0 := by
    refine List.eq_replicate_iff.2 ⟨touched_map_length _ _ _, fun b hb => ?_⟩
    obtain ⟨x, hx, rfl⟩ := List.mem_map.1 hb
    obtain ⟨k, hk, rfl⟩ := List.mem_map.1 hx
    exact readHostByte_reserved (by omega) (hout k (List.mem_range.1 hk)) s
  rw [step_readMemory hq (by omega) hf, hzero, wordOfBytes_replicate_zero]

end Sys2Proof.Machine
end

section
/-! SUPPORT. What a step changes: the results by their own commands, PMEM by a host write into its window. -/

namespace Sys2Proof.Machine

variable {s t : State}

/-! ## Results (20_memory R52 to R54) -/

/-- FMEM and FLEN are kept. -/
def FrameKept (s t : State) : Prop := t.fmem = s.fmem ∧ t.regs.flen = s.regs.flen

/-- OUT and OUT_LEN are kept. -/
def OutKept (s t : State) : Prop := t.out = s.out ∧ t.regs.outLen = s.regs.outLen

/-- COUT, COUT_LEN and MIME_SEL are kept. -/
def ContainerKept (s t : State) : Prop :=
  t.cout = s.cout ∧ t.regs.coutLen = s.regs.coutLen ∧ t.regs.mimeSel = s.regs.mimeSel

theorem exec_frameKept {i : Instr} (h : exec i s = .next t) : (i = .mkctl ∨ i = .mkdata) ∨ FrameKept s t := by
  cases i with
  | mkctl => exact .inl (.inl rfl)
  | mkdata => exact .inl (.inr rfl)
  | configure => obtain ⟨e, rfl⟩ | ⟨x, -, -, -, rfl⟩ := execConfigure_cases h <;> exact .inr ⟨rfl, rfl⟩
  | encode => obtain ⟨e, rfl⟩ | ⟨-, -, rfl⟩ := execEncode_cases h <;> exact .inr ⟨rfl, rfl⟩
  | enccont => obtain ⟨e, rfl⟩ | ⟨-, -, -, rfl⟩ := execEnccont_cases h <;> exact .inr ⟨rfl, rfl⟩

theorem exec_outKept {i : Instr} (h : exec i s = .next t) : i = .encode ∨ OutKept s t := by
  cases i with
  | encode => exact .inl rfl
  | configure => obtain ⟨e, rfl⟩ | ⟨x, -, -, -, rfl⟩ := execConfigure_cases h <;> exact .inr ⟨rfl, rfl⟩
  | mkctl => obtain ⟨e, rfl⟩ | ⟨-, -, rfl⟩ := execMkctl_cases h <;> exact .inr ⟨rfl, rfl⟩
  | mkdata => obtain ⟨e, rfl⟩ | ⟨-, -, -, -, rfl⟩ := execMkdata_cases h <;> exact .inr ⟨rfl, rfl⟩
  | enccont => obtain ⟨e, rfl⟩ | ⟨-, -, -, rfl⟩ := execEnccont_cases h <;> exact .inr ⟨rfl, rfl⟩

theorem exec_containerKept {i : Instr} (h : exec i s = .next t) : i = .enccont ∨ ContainerKept s t := by
  cases i with
  | enccont => exact .inl rfl
  | configure => obtain ⟨e, rfl⟩ | ⟨x, -, -, -, rfl⟩ := execConfigure_cases h <;> exact .inr ⟨rfl, rfl, rfl⟩
  | mkctl => obtain ⟨e, rfl⟩ | ⟨-, -, rfl⟩ := execMkctl_cases h <;> exact .inr ⟨rfl, rfl, rfl⟩
  | mkdata => obtain ⟨e, rfl⟩ | ⟨-, -, -, -, rfl⟩ := execMkdata_cases h <;> exact .inr ⟨rfl, rfl, rfl⟩
  | encode => obtain ⟨e, rfl⟩ | ⟨-, -, rfl⟩ := execEncode_cases h <;> exact .inr ⟨rfl, rfl, rfl⟩

theorem hostRead_keepsResults (a : Nat) (w : Width) (s : State) :
    FrameKept s (hostRead a w s) ∧ OutKept s (hostRead a w s) ∧ ContainerKept s (hostRead a w s) := by
  obtain ⟨v, d, h⟩ := hostRead_eq a w s
  rw [h]
  exact ⟨⟨rfl, rfl⟩, ⟨rfl, rfl⟩, rfl, rfl, rfl⟩

theorem hostWrite_keepsResults (a : Nat) (w : Width) (v : Word) (s : State) :
    FrameKept s (hostWrite a w v s) ∧ OutKept s (hostWrite a w v s) ∧ ContainerKept s (hostWrite a w v s) := by
  obtain ⟨-, g, h, -, hflen, hout, hcout, hmime⟩ | ⟨-, h⟩ := hostWrite_cases a w v s
  · rw [h]
    exact ⟨⟨rfl, hflen⟩, ⟨rfl, hout⟩, rfl, hcout, hmime⟩
  · obtain ⟨m, hm⟩ := writeHostBytes_eq a (writtenBytes w v) s
    rw [h, hm]
    exact ⟨⟨rfl, rfl⟩, ⟨rfl, rfl⟩, rfl, rfl, rfl⟩

/-- A step keeps every result, unless it runs a command. -/
theorem step_results (h : step s = .next t) : (FrameKept s t ∧ OutKept s t ∧ ContainerKept s t) ∨
    ∃ i rest, s.hostQueue = .write 0 .word (encode i) :: rest ∧ exec i { s with hostQueue := rest } = .next t := by
  obtain ⟨-, rfl⟩ | ⟨addr, w, rest, -, -, rfl⟩ | ⟨v, rest, hq, hv⟩ | ⟨addr, w, v, rest, -, -, -, rfl⟩ := step_cases h
  · exact .inl ⟨⟨rfl, rfl⟩, ⟨rfl, rfl⟩, rfl, rfl, rfl⟩
  · exact .inl (hostRead_keepsResults _ _ { s with hostQueue := rest })
  · obtain ⟨i, hi, hexec⟩ | rfl := runCommand_cases hv
    · exact .inr ⟨i, rest, by rw [hq, eq_encode_of_decodeWord hi], hexec⟩
    · exact .inl ⟨⟨rfl, rfl⟩, ⟨rfl, rfl⟩, rfl, rfl, rfl⟩
  · exact .inl (hostWrite_keepsResults _ _ _ { s with hostQueue := rest })

/-- Settles O50: a step that runs no command keeps every result, and a command keeps the results of the others. -/
theorem resultsChangeOnlyByTheirCommands : Obligations.ResultsChangeOnlyByTheirCommands := by
  intro s t h
  obtain ⟨⟨hfmem, hflen⟩, ⟨hout, hlen⟩, hcout, hclen, hmime⟩ | ⟨i, rest, hq, hexec⟩ := step_results h
  · exact ⟨fun hne => absurd hne (by simp [hfmem, hflen]), fun hne => absurd hne (by simp [hout, hlen]),
      fun hne => absurd hne (by simp [hcout, hclen, hmime])⟩
  · refine ⟨fun hne => ⟨rest, ?_⟩, fun hne => ⟨rest, ?_⟩, fun hne => ⟨rest, ?_⟩⟩
    · obtain (rfl | rfl) | ⟨hfmem, hflen⟩ := exec_frameKept hexec
      · exact .inl hq
      · exact .inr hq
      · exact absurd hne (by simp [hfmem, hflen])
    · obtain rfl | ⟨hout, hlen⟩ := exec_outKept hexec
      · exact hq
      · exact absurd hne (by simp [hout, hlen])
    · obtain rfl | ⟨hcout, hlen, hmime⟩ := exec_containerKept hexec
      · exact hq
      · exact absurd hne (by simp [hcout, hlen, hmime])

/-! ## PMEM (20_memory R50, R63) -/

theorem runCommand_pmem {v : Word} (h : runCommand v s = .next t) : t.pmem = s.pmem := by
  obtain ⟨i, -, hi⟩ | rfl := runCommand_cases h
  · exact (commandsKeepOperandsAndPmem i s t hi).1
  · rfl

theorem hostRead_pmem (a : Nat) (w : Width) (s : State) : (hostRead a w s).pmem = s.pmem := by
  obtain ⟨v, d, h⟩ := hostRead_eq a w s
  rw [h]

/-- A legal write that starts outside PMEM keeps it. -/
theorem hostWrite_pmem {a : Nat} {w : Width} (hf : FormLegal a w.bytes) (ha : OutsidePmem a) (v : Word) (s : State) :
    (hostWrite a w v s).pmem = s.pmem := by
  obtain ⟨-, g, h, -⟩ | ⟨-, h⟩ := hostWrite_cases a w v s
  · rw [h]
  · rw [h, writeHostBytes_of_outside fun k hk => outsidePmem_of_formLegal hf ha (writtenBytes_length w v ▸ hk)]

/-- Settles O51: no command and no read touches PMEM, and a write touches it only from inside its window. -/
theorem pmemChangesOnlyByHostWrites : Obligations.PmemChangesOnlyByHostWrites := by
  intro s t h hne
  obtain ⟨-, rfl⟩ | ⟨addr, w, rest, -, -, rfl⟩ | ⟨v, rest, -, hv⟩ | ⟨addr, w, v, rest, hq, -, hf, rfl⟩ := step_cases h
  · exact absurd rfl hne
  · exact absurd (hostRead_pmem _ _ _) hne
  · exact absurd (runCommand_pmem hv) hne
  · have hin : ¬ OutsidePmem addr.toNat := fun hout => hne (hostWrite_pmem hf hout v _)
    unfold OutsidePmem at hin
    exact ⟨addr, w, v, rest, hq, by omega, by omega⟩

end Sys2Proof.Machine
end

section
/-! SUPPORT. The family on the encodings: the command word in both directions, and the two frames byte by byte. -/

namespace Sys2Proof.Machine

/-! ## The command word (30_encoding R82 to R85) -/

/-- RSV is the word above its low byte (30_encoding R82). -/
theorem rsvField_toNat (w : Word) : (rsvField w).toNat = w.toNat / 256 := by
  have := w.isLt
  rw [rsvField, BitVec.extractLsb'_toNat, Nat.shiftRight_eq_div_pow]
  omega

/-- OP is the low byte of the word (30_encoding R82). -/
theorem opField_toNat (w : Word) : (opField w).toNat = w.toNat % 256 := by
  rw [opField, BitVec.extractLsb'_toNat, Nat.shiftRight_zero]

theorem decodeWord_of_rsvField_ne {w : Word} (h : rsvField w ≠ 0) : decodeWord w = .error .reservedBitsSet :=
  if_neg h

theorem decodeWord_of_opcodeMap_none {w : Word} (hrsv : rsvField w = 0) (hop : opcodeMap (opField w) = none) :
    decodeWord w = .error .reservedOpcode := by
  rw [decodeWord, if_pos hrsv, hop]

/-- The opcodes of the commands are 1 to 5 (30_encoding R83). -/
theorem opField_encode_range (i : Instr) : 1 ≤ (opField (encode i)).toNat ∧ (opField (encode i)).toNat < 6 := by
  cases i <;> decide

/-- Every other opcode is reserved (30_encoding R84). -/
theorem opcodeMap_eq_none {op : Byte} (h : op.toNat = 0 ∨ 6 ≤ op.toNat) : opcodeMap op = none := by
  rw [Option.eq_none_iff_forall_ne_some]
  intro i hi
  have hrange := opField_encode_range i
  rw [← opcodeMap_eq_some hi] at hrange
  omega

/-- Settles O1: each word is a command's encoding, and an encoding decodes to its command. -/
theorem tableWordsDecode : Obligations.TableWordsDecode :=
  ⟨decodeWord_encode .configure, decodeWord_encode .mkctl, decodeWord_encode .mkdata, decodeWord_encode .encode,
    decodeWord_encode .enccont⟩

/-- Settles O2: a command decodes only from its own word, and from that word it does. -/
theorem decoderAcceptsExactlyTheEncodings : Obligations.DecoderAcceptsExactlyTheEncodings :=
  fun _ i => ⟨eq_encode_of_decodeWord, fun h => h ▸ decodeWord_encode i⟩

/-- Settles O3: RSV is asked first, then OP is looked up in the map. -/
theorem illegalWordsAreRejectedByName : Obligations.IllegalWordsAreRejectedByName := by
  intro w
  rw [← rsvField_toNat, ← opField_toNat]
  refine ⟨fun hrsv => decodeWord_of_rsvField_ne fun h => hrsv (by rw [h]; rfl), fun hrsv hop => ?_⟩
  exact decodeWord_of_opcodeMap_none (BitVec.eq_of_toNat_eq hrsv) (opcodeMap_eq_none hop)

/-! ## The frame around a body (30_encoding R70 to R77) -/

variable (c : Params) (v : Version)

/-- The footer holds the hash of the body as it stands in the frame, least significant byte first (30_encoding R77). -/
theorem frame_get_footer_byte {body : List Byte} {n : Nat} (hn : body.length = n) {k : Nat} (h : k < 4) :
    (frame c body)[7 + n + k]? = some (BitVec.ofNat 8
      ((c.hash32 (((frame c body).drop 7).take n) 0xDEADBEEF#32).toNat / 2 ^ (8 * k))) := by
  subst hn
  rw [frame_get_footer c body h, footer, le32_get _ h, frame_body]
  rfl

/-- The stop marker stands after the footer (30_encoding R77). -/
theorem frame_get_stop_of_length {body : List Byte} {n : Nat} (hn : body.length = n) :
    (frame c body)[n + 11]? = some c.stop := by
  subst hn
  exact frame_get_stop c body

/-! ## The Control frame (30_encoding R73) -/

/-- The bytes of a Control body after the header: length, contentHash, contentDigest. -/
theorem controlBody_drop_header (p : List Byte) : (controlBody c v p).drop 4
    = le32 (BitVec.ofNat 32 p.length) ++ (le32 (c.hash32 p controlSeed) ++ (c.digest128 p).toList) := by
  rw [controlBody, List.append_assoc, List.append_assoc]
  exact List.drop_left' (header_length v typeControl 0x00 0x00)

theorem controlBody_get_length {p : List Byte} (hp : p.length < 2 ^ 32) {k : Nat} (h : k < 4) :
    (controlBody c v p)[4 + k]? = some (BitVec.ofNat 8 (p.length / 2 ^ (8 * k))) := by
  rw [← List.getElem?_drop, controlBody_drop_header, List.getElem?_append_left h, le32_get _ h, BitVec.toNat_ofNat,
    Nat.mod_eq_of_lt hp]

theorem controlBody_get_hash (p : List Byte) {k : Nat} (h : k < 4) :
    (controlBody c v p)[8 + k]? = some (BitVec.ofNat 8 ((c.hash32 p controlSeed).toNat / 2 ^ (8 * k))) := by
  rw [show 8 + k = 4 + (4 + k) by omega, ← List.getElem?_drop, controlBody_drop_header, ← List.getElem?_drop,
    List.drop_left' (le32_length _), List.getElem?_append_left h, le32_get _ h]

theorem controlBody_drop_digest (p : List Byte) : (controlBody c v p).drop 12 = (c.digest128 p).toList := by
  rw [show 12 = 4 + (4 + 4) from rfl, ← List.drop_drop, controlBody_drop_header, ← List.drop_drop,
    List.drop_left' (le32_length _), List.drop_left' (le32_length _)]

/-- A byte of the Control body stands 7 bytes further on in the frame. -/
theorem controlFrame_get_body (p : List Byte) {i : Nat} (h : i < 28) :
    (controlFrame c v p)[7 + i]? = (controlBody c v p)[i]? :=
  frame_get_body c _ (by rwa [controlBody_length])

/-- The digest ends the body, so it stands before the footer. -/
theorem controlFrame_digest (p : List Byte) : ((controlFrame c v p).drop 19).take 16 = (c.digest128 p).toList := by
  rw [controlFrame, show 19 = 7 + 12 from rfl, ← List.drop_drop, frame_drop_preamble, List.append_assoc,
    List.drop_append_of_le_length (by rw [controlBody_length]; decide), controlBody_drop_digest]
  exact List.take_left' (by simp)

/-- Settles O25, field by field: a field of the body stands 7 bytes further on in the frame, and preamble, footer and
stop are the assembly's. -/
theorem controlFrameLayout : Obligations.ControlFrameLayout := by
  intro c v p hp
  refine ⟨controlFrame_length c v p, frame_take_preamble c _, ?version,
    controlFrame_get_body c v p (i := 1) (by decide), controlFrame_get_body c v p (i := 2) (by decide),
    controlFrame_get_body c v p (i := 3) (by decide), ?length, ?hash, controlFrame_digest c v p, ?footer, ?stop⟩
  case version =>
    rw [controlFrame_get_body c v p (i := 0) (by decide)]
    cases v <;> rfl
  case length =>
    intro k hk
    rw [← controlBody_get_length c v hp hk, ← controlFrame_get_body c v p (by omega), ← Nat.add_assoc]
  case hash =>
    intro k hk
    rw [show 15 + k = 7 + (8 + k) by omega, controlFrame_get_body c v p (by omega)]
    exact controlBody_get_hash c v p hk
  case footer => exact fun k hk => frame_get_footer_byte c (controlBody_length c v p) hk
  case stop => exact frame_get_stop_of_length c (controlBody_length c v p)

/-! ## The Data frame (30_encoding R74) -/

/-- The V2 mask by its index in the data field, two header bytes before it in the stream (42_whitening R153). -/
theorem maskV2_add_four (i : Nat) : maskV2 (i + 4) = stripeMask .v2 i := by
  obtain h | h | h : i % 3 = 0 ∨ i % 3 = 1 ∨ i % 3 = 2 := by omega
  all_goals simp [maskV2, stripeMask, Nat.add_mod, h]

/-- Whitening masks each header byte by its index (42_whitening R150, R153). -/
theorem whiten_fst_get_mask (hdr dat : List Byte) (j : Nat) :
    (whiten v hdr dat).1[j]? = hdr[j]?.map (· ^^^ headerMask v j) := by
  cases v with
  | v1 => simp [whiten, headerMask]
  | v2 =>
    rw [whiten, stripeV2, List.getElem?_mapIdx]
    congr 1
    funext b
    obtain rfl | rfl | h : j = 2 ∨ j = 3 ∨ ¬ (2 ≤ j ∧ j < 4) := by omega
    · rfl
    · rfl
    · simp [headerMask, h, show j ≠ 2 by omega, show j ≠ 3 by omega]

/-- Whitening masks each data byte by its index (42_whitening R151, R153). -/
theorem whiten_snd_get_mask (hdr dat : List Byte) (i : Nat) :
    (whiten v hdr dat).2[i]? = dat[i]?.map (· ^^^ stripeMask v i) := by
  cases v with
  | v1 =>
    rw [whiten, stripeV1, List.getElem?_mapIdx]
    congr 1
    funext b
    simp only [stripeMask]
    split_ifs <;> simp
  | v2 => simp only [whiten, stripeV2, List.getElem?_mapIdx, maskV2_add_four]

theorem dataBody_get_header_mask (blk : List Byte) (idx : BitVec 16) {j : Nat} (h : j < 4) :
    (dataBody v blk idx)[j]? = (dataHeader v idx)[j]?.map (· ^^^ headerMask v j) := by
  rw [dataBody, List.getElem?_append_left (by simpa using h), whiten_fst_get_mask]

/-- A data byte is the block's, or the pad byte after its end, under its mask (30_encoding R76). -/
theorem dataBody_get_data (blk : List Byte) (idx : BitVec 16) {i : Nat} (h : i < 256) :
    (dataBody v blk idx)[4 + i]? = some ((blk[i]?).getD 0xFF#8 ^^^ stripeMask v i) := by
  rw [dataBody, List.getElem?_append_right (by simp), whiten_fst_length, dataHeader_length, Nat.add_sub_cancel_left,
    whiten_snd_get_mask, rpad_get (n := blockSize) padByte h]
  rfl

/-- A byte of the Data body stands 7 bytes further on in the frame. -/
theorem dataFrame_get_body {blk : List Byte} (idx : BitVec 16) (hblk : blk.length ≤ 256) {i : Nat} (h : i < 260) :
    (dataFrame c v blk idx)[7 + i]? = (dataBody v blk idx)[i]? :=
  frame_get_body c _ (by rwa [dataBody_length v idx hblk])

/-- The version and type codes are never whitened (30_encoding R78). -/
theorem dataFrame_get_code {blk : List Byte} (idx : BitVec 16) (hblk : blk.length ≤ 256) {j : Nat} (h : j < 2) :
    (dataFrame c v blk idx)[7 + j]? = (dataHeader v idx)[j]? := by
  rw [dataFrame_get_body c v idx hblk (by omega), dataBody_get_header v blk idx h]

/-- Byte k of the index, least significant first, under its header mask (30_encoding R76). -/
theorem dataFrame_get_index {blk : List Byte} (idx : BitVec 16) (hblk : blk.length ≤ 256) {k : Nat} (h : k < 2) :
    (dataFrame c v blk idx)[9 + k]? = some (BitVec.ofNat 8 (idx.toNat / 2 ^ (8 * k)) ^^^ headerMask v (2 + k)) := by
  have hheader : (dataHeader v idx)[2 + k]? = (le16 idx)[k]? := by
    rw [← List.getElem?_drop]
    rfl
  rw [show 9 + k = 7 + (2 + k) by omega, dataFrame_get_body c v idx hblk (by omega),
    dataBody_get_header_mask v blk idx (by omega), hheader, le16_get idx h, Option.map_some]

/-- Settles O26, field by field: a field of the body stands 7 bytes further on in the frame under the mask of its
version, and preamble, footer and stop are the assembly's. -/
theorem dataFrameLayout : Obligations.DataFrameLayout := by
  intro c v blk idx hblk
  have hlen : (dataBody v blk idx).length = 260 := dataBody_length v idx hblk
  refine ⟨dataFrame_length c v idx hblk, frame_take_preamble c _, ?version,
    dataFrame_get_code c v idx hblk (j := 1) (by decide), ?index_lo,
    dataFrame_get_index c v idx hblk (k := 1) (by decide), ?data, ?footer, ?stop⟩
  case version =>
    rw [dataFrame_get_code c v idx hblk (j := 0) (by decide)]
    cases v <;> rfl
  case index_lo => simpa using dataFrame_get_index c v idx hblk (k := 0) (by decide)
  case data =>
    intro i hi
    rw [show 11 + i = 7 + (4 + i) by omega, dataFrame_get_body c v idx hblk (by omega), dataBody_get_data v blk idx hi]
  case footer => exact fun k hk => frame_get_footer_byte c hlen hk
  case stop => exact frame_get_stop_of_length c hlen

end Sys2Proof.Machine
end

section
/-! SUPPORT. CONFIGURE: what it latches where its operands are legal, the error it reports where they are not, and the
commands without a session. -/

namespace Sys2Proof.Machine

variable {s t : State}

/-! ## A CONFIGURE of legal operands (40_configure R106) -/

theorem versionOfCode_of_versionHasCode {code : BitVec 8} {v : Version} (h : versionHasCode code v) :
    versionOfCode code = some v := by
  obtain ⟨rfl, rfl⟩ | ⟨rfl, rfl⟩ := h <;> rfl

theorem sampleFmtOfCode_of_formatHasCode {code : BitVec 8} {f : SampleFmt} (h : formatHasCode code f) :
    sampleFmtOfCode code = some f := by
  obtain ⟨rfl, rfl⟩ | ⟨rfl, rfl⟩ := h <;> rfl

theorem containerOfCode_of_containerHasCode {code : BitVec 8} {k : Container} (h : containerHasCode code k) :
    containerOfCode code = some k := by
  obtain ⟨rfl, rfl⟩ | ⟨rfl, rfl⟩ := h <;> rfl

/-- A one-bit field is 1 as a word exactly if it is 1 as a number. -/
theorem beq_one_eq_toNat_beq_one (b : BitVec 1) : (b == 1#1) = (b.toNat == 1) := by
  rw [Bool.eq_iff_iff, beq_iff_eq, beq_iff_eq, BitVec.toNat_eq]
  rfl

/-- Where each check passes, CONFIGURE latches the session of the choices, under any parameters. -/
theorem configureWith_of_legal {c : Params} {v : Version} {f : SampleFmt} {k : Container}
    (hver : versionHasCode s.regs.cfgVersion v) (hfmt : formatHasCode s.regs.cfgSampleFmt f)
    (hcont : containerHasCode s.regs.cfgContainer k) (hrate : c.sampleRateOk s.regs.cfgSampleRate = true) :
    configureWith c s = .next (succeed (latchSession (sessionFrom s.regs v f k) s)) := by
  have hlegal : rateOk c s.regs.cfgSampleRate ≠ false := by simp [rateOk_eq, hrate]
  simp only [configureWith, if_neg hlegal, versionOfCode_of_versionHasCode hver,
    sampleFmtOfCode_of_formatHasCode hfmt, containerOfCode_of_containerHasCode hcont, beq_one_eq_toNat_beq_one,
    sessionFrom]

/-- Settles O23: this block's CONFIGURE is the one under its own parameters. -/
theorem configureLatchesTheSession : Obligations.ConfigureLatchesTheSession :=
  fun _ _ _ _ hver hfmt hcont =>
    ⟨configureWith_of_legal hver hfmt hcont, fun _ => configureWith_of_legal hver hfmt hcont⟩

/-! ## The error a CONFIGURE reports (60_exceptions R234) -/

theorem versionOfCode_eq_none {code : BitVec 8} (h : versionOfCode code = none) :
    code.toNat ≠ 1 ∧ code.toNat ≠ 2 := by
  unfold versionOfCode at h
  split_ifs at h with h₁ h₂
  exact ⟨fun hc => h₁ (BitVec.eq_of_toNat_eq hc), fun hc => h₂ (BitVec.eq_of_toNat_eq hc)⟩

theorem sampleFmtOfCode_eq_none {code : BitVec 8} (h : sampleFmtOfCode code = none) : 1 < code.toNat := by
  unfold sampleFmtOfCode at h
  split_ifs at h with h₀ h₁
  bv_omega

theorem containerOfCode_eq_none {code : BitVec 8} (h : containerOfCode code = none) : 1 < code.toNat := by
  unfold containerOfCode at h
  split_ifs at h with h₀ h₁
  bv_omega

/-- CONFIGURE ends with the first error in the order of 60_exceptions R234, or with 0x00 where none applies. -/
theorem execConfigure_err (h : execConfigure s = .next t) : t.regs.err = firstError 0x00000001 s := by
  rw [firstError_configure, ← rateOk_eq]
  unfold execConfigure configureWith at h
  split at h
  next hrate =>
    cases h
    rw [if_pos hrate]
    rfl
  next hrate =>
  rw [if_neg hrate]
  split at h
  next hver =>
    cases h
    rw [if_pos (versionOfCode_eq_none hver)]
    rfl
  next v hver =>
  have hver := versionOfCode_eq_some hver
  rw [if_neg (by omega)]
  split at h
  next hfmt =>
    cases h
    rw [if_pos (.inl (sampleFmtOfCode_eq_none hfmt))]
    rfl
  next f hfmt =>
  have hfmt := sampleFmtOfCode_eq_some hfmt
  split at h
  next hcont =>
    cases h
    rw [if_pos (.inr (containerOfCode_eq_none hcont))]
    rfl
  next k hcont =>
    have hcont := containerOfCode_eq_some hcont
    cases h
    rw [if_neg (by omega)]
    rfl

/-- A failing CONFIGURE invalidates the session and writes its error's code (40_configure R107). -/
theorem execConfigure_failure (h : firstError 0x00000001 s ≠ 0x00) :
    execConfigure s = .next { s with session.valid := false, regs.err := firstError 0x00000001 s } := by
  obtain ⟨e, he⟩ := execConfigure_of_firstError h
  rw [he, ← execConfigure_err he]
  rfl

/-! ## The commands without a session (60_exceptions R236) -/

/-- Every command but CONFIGURE asks for a session before anything else. -/
theorem exec_of_not_valid {i : Instr} (hi : i ≠ .configure) (hv : s.session.valid = false) :
    exec i s = .next (raiseError .notConfigured s) := by
  cases i with
  | configure => exact absurd rfl hi
  | mkctl => exact if_pos hv
  | mkdata => exact if_pos hv
  | encode => exact if_pos hv
  | enccont => exact if_pos hv

/-- Settles O24: the failed CONFIGURE leaves no session, and without one no other command goes on. -/
theorem failedConfigureLocksTheOtherCommands : Obligations.FailedConfigureLocksTheOtherCommands :=
  fun _ h => ⟨_, execConfigure_failure h, rfl, fun _ hi => exec_of_not_valid hi rfl⟩

end Sys2Proof.Machine
end

section
/-! SUPPORT. The family on the frame formatters: what they make passes a receiver's checks, and what MKCTL and MKDATA
leave behind. -/

namespace Sys2Proof.Machine

/-- Settles O27: the two bodies carry a version code and their type code, and the assembly does the rest. -/
theorem formattersMakeWellFormedFrames : Obligations.FormattersMakeWellFormedFrames :=
  fun c v => ⟨controlFrame_wellFormed c v, fun _ idx hblk => dataFrame_wellFormed c v idx hblk⟩

/-! ## The state after a frame command (20_memory R52) -/

variable {s : State} {f : List Byte}

/-- The buffer holds the frame just written. -/
theorem bufferHolds_frameWrite (f : List Byte) (s : State) : BufferHolds (frameWrite f s) f := fun i hi => by
  rw [frameWrite_get, if_pos hi]

/-- The bytes after the frame just written are kept. -/
theorem frameWrite_get_of_length_le {a : Nat} (h : f.length ≤ a) : (frameWrite f s).fmem.get a = s.fmem.get a := by
  rw [frameWrite_get, if_neg (Nat.not_lt.2 h)]

/-- A command that succeeds by writing a frame of `n` bytes leaves it in FMEM[0 : n] and `n` in FLEN, and keeps the rest
of FMEM and of the state. -/
theorem exec_completes_of_frameWrite {i : Instr} {n : Nat}
    (h : exec i s = .next (succeed (takeDraw (frameWrite f s)))) (hn : f.length = n) :
    ∃ t, exec i s = .next t ∧ BufferHolds t f ∧ (∀ a, n ≤ a → t.fmem.get a = s.fmem.get a) ∧
      t = { s with fmem := t.fmem, regs.flen := BitVec.ofNat 9 n, regs.err := 0x00, draws := s.draws + 1 } := by
  subst hn
  exact ⟨_, h, bufferHolds_frameWrite f s, fun _ ha => frameWrite_get_of_length_le ha, rfl⟩

/-- Settles O28: nothing stops the command, and a Control frame has 40 bytes. -/
theorem mkctlWritesTheControlFrame : Obligations.MkctlWritesTheControlFrame := fun _ hvalid hplen =>
  exec_completes_of_frameWrite (execMkctl_eq hvalid hplen) (controlFrame_length _ _ _)

/-- Settles O29: nothing stops the command, and the Data frame of a block of at most 256 bytes has 272 bytes. -/
theorem mkdataWritesTheDataFrame : Obligations.MkdataWritesTheDataFrame := by
  intro s hvalid hlen hidx hblock
  have hblk : (memRead s.regs.argOff.toNat s.regs.argLen.toNat s).length ≤ 256 := by rwa [memRead_length]
  rw [BitVec.ofNat_toNat]
  exact exec_completes_of_frameWrite (execMkdata_eq hvalid hlen hidx hblock) (dataFrame_length _ _ _ hblk)

end Sys2Proof.Machine
end

section
/-! SUPPORT. The family on whitening: a byte masked twice is the byte, and each stripe is its rule, byte by byte. -/

namespace Sys2Proof.Machine

variable {hdr dat : List Byte}

/-! ## Both stripes (42_whitening R155) -/

/-- Bytes under a mask each, fixed by its index, come back under the same masks. -/
theorem eq_of_getElem?_masked_twice {l l₁ l₂ : List Byte} {mask : Nat → Byte}
    (h₁ : ∀ i, l₁[i]? = l[i]?.map (· ^^^ mask i)) (h₂ : ∀ i, l₂[i]? = l₁[i]?.map (· ^^^ mask i)) : l₂ = l := by
  refine List.ext_getElem? fun i => ?_
  have hcancel : ((· ^^^ mask i) ∘ (· ^^^ mask i) : Byte → Byte) = id :=
    funext fun b => by simp
  rw [h₂, h₁, Option.map_map, hcancel, Option.map_id, id]

/-- Settles O30: the mask on a byte depends on the version and the index alone, so the second pass cancels the first. -/
theorem whiteningIsAnInvolution : Obligations.WhiteningIsAnInvolution := fun v hdr dat =>
  Prod.ext
    (eq_of_getElem?_masked_twice (whiten_fst_get_mask v hdr dat) (whiten_fst_get_mask v _ _))
    (eq_of_getElem?_masked_twice (whiten_snd_get_mask v hdr dat) (whiten_snd_get_mask v _ _))

/-! ## The V1 stripe (42_whitening R150) -/

theorem stripeV1_snd_get {i : Nat} {b : Byte} (h : dat[i]? = some b) :
    (stripeV1 hdr dat).2[i]? = some (b ^^^ stripeMask .v1 i) := by
  have hmask := whiten_snd_get_mask .v1 hdr dat i
  rwa [h, Option.map_some] at hmask

/-- Settles O31: the data byte under its mask, for each residue the rule names. -/
theorem stripeV1TouchesOnlyItsDataBytes : Obligations.StripeV1TouchesOnlyItsDataBytes := by
  intro hdr dat _ hdat
  refine ⟨stripeV1_fst, stripeV1_snd_length.trans hdat, fun i b _ hb => ?_⟩
  rw [stripeV1_snd_get hb, stripeMask]
  refine ⟨fun h₃ => ?_, fun h₁₁ => ?_, fun h₃ h₁₁ => ?_⟩
  · rw [if_pos h₃]
  · rw [if_neg (by omega), if_pos h₁₁]
  · rw [if_neg h₃, if_neg h₁₁]
    exact congrArg some BitVec.xor_zero

/-! ## The V2 stripe (42_whitening R152) -/

/-- The mask as the rule writes it, an entry of a table of three. -/
theorem maskV2_eq_getD (j : Nat) : maskV2 j = ([0x35#8, 0xAC#8, 0x95#8][j % 3]?).getD 0x00#8 := by
  obtain h | h | h : j % 3 = 0 ∨ j % 3 = 1 ∨ j % 3 = 2 := by omega
  all_goals simp [maskV2, h]

/-- From index 2 on, a byte of the virtual stream is masked by its index, in the header and in the data field. -/
theorem stripeV2_stream_get (hhdr : hdr.length = 4) {j : Nat} (hj : 2 ≤ j) :
    ((stripeV2 hdr dat).1 ++ (stripeV2 hdr dat).2)[j]? = (hdr ++ dat)[j]?.map (· ^^^ maskV2 j) := by
  have hlen : (stripeV2 hdr dat).1.length = 4 := stripeV2_fst_length.trans hhdr
  obtain hheader | ⟨i, rfl⟩ : j < 4 ∨ ∃ i, j = 4 + i := (Nat.lt_or_ge j 4).imp_right Nat.exists_eq_add_of_le
  · have hmask : headerMask .v2 j = maskV2 j := by
      obtain rfl | rfl : j = 2 ∨ j = 3 := by omega
      all_goals rfl
    rw [List.getElem?_append_left (hlen ▸ hheader), List.getElem?_append_left (hhdr ▸ hheader), ← hmask]
    exact whiten_fst_get_mask .v2 hdr dat j
  · rw [List.getElem?_append_right (by omega), List.getElem?_append_right (by omega), hlen, hhdr,
      Nat.add_sub_cancel_left, Nat.add_comm, maskV2_add_four]
    exact whiten_snd_get_mask .v2 hdr dat i

/-- The stripe leaves the version and the type byte as they are. -/
theorem stripeV2_fst_take_two (hdr dat : List Byte) : (stripeV2 hdr dat).1.take 2 = hdr.take 2 :=
  List.ext_getElem? fun j => by
    rw [List.getElem?_take, List.getElem?_take]
    split
    next hj => exact whiten_fst_get .v2 hdr dat hj
    next => rfl

/-- Settles O32: the stream byte under the mask of its index, which the rule reads from a table. -/
theorem stripeV2WalksItsStream : Obligations.StripeV2WalksItsStream := by
  intro hdr dat hhdr hdat
  refine ⟨stripeV2_fst_length.trans hhdr, stripeV2_snd_length.trans hdat, stripeV2_fst_take_two hdr dat,
    fun j b hj _ hb => ?_⟩
  rw [stripeV2_stream_get hhdr hj, hb, Option.map_some, maskV2_eq_getD]

end Sys2Proof.Machine
end

section
/-! SUPPORT. The family on the sequencer's plan: the blocks of a payload and the segments of a plan, by position. -/

namespace Sys2Proof.Machine

variable (c : Params) (x : Session) (p : List Byte)

/-! ## The blocks (43_sequencer R173, R174) -/

theorem blockCount_eq_blocksOf (L : Nat) : blockCount L = blocksOf L := blockCount_eq L

/-- The first `n` blocks, end to end, are the payload's first 256·n bytes. -/
theorem flatMap_block_range (n : Nat) : (List.range n).flatMap (block p) = p.take (256 * n) := by
  induction n with
  | zero => rfl
  | succ n ih =>
    rw [List.range_succ, List.flatMap_append, ih, List.flatMap_singleton, Nat.mul_succ, List.take_add, block, blockSize]

/-- A block is the slice of the payload that R174 writes. -/
theorem block_eq_slice (b : Nat) : block p b = (p.take (min p.length (256 * (b + 1)))).drop (256 * b) := by
  have hend : p.take (min p.length (256 * (b + 1))) = p.take (256 * (b + 1)) :=
    List.take_eq_take_iff.2 (by omega)
  rw [hend, List.drop_take, Nat.mul_succ, Nat.add_sub_cancel_left, block, blockSize]

/-- Settles O33: so many blocks cover the payload, and the length of each is what the payload still holds, up to 256. -/
theorem blocksPartitionThePayload : Obligations.BlocksPartitionThePayload := by
  intro p
  have hcount : blocksOf p.length = (p.length + 255) / 256 := rfl
  refine ⟨?_, fun b hb => ⟨block_eq_slice p b, fun hlast => ?_, fun hlast => ?_⟩⟩
  · rw [flatMap_block_range, List.take_of_length_le (by omega)]
  · rw [block_length]
    omega
  · rw [block_length]
    omega

/-! ## The data segments, by position -/

/-- Pieces of two elements each, end to end: element `i` of piece `b` stands at 2b + i. -/
theorem flatMap_range_pairs_get {α : Type} {f : Nat → List α} (hf : ∀ b, (f b).length = 2) {n b i : Nat} (hb : b < n)
    (hi : i < 2) : ((List.range n).flatMap f)[2 * b + i]? = (f b)[i]? := by
  induction n with
  | zero => omega
  | succ n ih =>
    have hlen : ((List.range n).flatMap f).length = 2 * n := by simp [List.length_flatMap, hf, Nat.mul_comm]
    rw [List.range_succ, List.flatMap_append, List.flatMap_singleton]
    obtain hlt | rfl : b < n ∨ b = n := by omega
    · rw [List.getElem?_append_left (by omega), ih hlt]
    · rw [List.getElem?_append_right (by omega), hlen, Nat.add_sub_cancel_left]

theorem dataSegments_get {b i : Nat} (hb : b < blocksOf p.length) (hi : i < 2) :
    (dataSegments c x p)[2 * b + i]? = (blockSegments c x p b)[i]? :=
  flatMap_range_pairs_get (fun _ => rfl) (by rwa [blockCount_eq_blocksOf]) hi

/-! ## The plan, by position (43_sequencer R175, R184) -/

theorem plan_length : (plan c x p).length = 6 + 2 * blocksOf p.length + (if x.lbr then 2 else 0) := by
  simp only [plan, controlSegments, List.length_append, pilotSegments_length, dataSegments_length, List.length_cons,
    List.length_nil, blockCount_eq_blocksOf]
  omega

/-- After the lead silence and the pilot segments come the Control segments, the data segments and the trail silence. -/
theorem plan_get_after_pilot {k : Nat} (hk : k = if x.lbr then 3 else 1) (i : Nat) : (plan c x p)[k + i]?
    = (controlSegments c x p ++ (dataSegments c x p ++ [.silence (ns x.sampleRate c.leadMs)]))[i]? := by
  have hlen : ([Segment.silence (ns x.sampleRate c.leadMs)] ++ pilotSegments c x).length = k := by
    rw [List.length_append, pilotSegments_length, hk]
    split <;> rfl
  rw [plan, List.append_assoc, List.append_assoc, ← hlen, List.getElem?_append_right (by omega),
    Nat.add_sub_cancel_left]

/-- After the four Control segments come the data segments and the trail silence. -/
theorem plan_get_after_control {k : Nat} (hk : k = if x.lbr then 3 else 1) (i : Nat) : (plan c x p)[k + 4 + i]?
    = (dataSegments c x p ++ [.silence (ns x.sampleRate c.leadMs)])[i]? := by
  have hlen : (controlSegments c x p).length = 4 := rfl
  rw [Nat.add_assoc, plan_get_after_pilot c x p hk, List.getElem?_append_right (by omega), hlen,
    Nat.add_sub_cancel_left]

/-- The two segments of block `b`, its Data frame and the gap after it. -/
theorem plan_get_block {k b i : Nat} (hk : k = if x.lbr then 3 else 1) (hb : b < blocksOf p.length) (hi : i < 2) :
    (plan c x p)[k + 4 + (2 * b + i)]? = (blockSegments c x p b)[i]? := by
  rw [plan_get_after_control c x p hk, List.getElem?_append_left, dataSegments_get c x p hb hi]
  rw [dataSegments_length, blockCount_eq_blocksOf]
  omega

/-- The trail silence stands after the segments of the last block. -/
theorem plan_get_trail {k : Nat} (hk : k = if x.lbr then 3 else 1) :
    (plan c x p)[k + 4 + 2 * blocksOf p.length]? = some (.silence (ns x.sampleRate c.leadMs)) := by
  rw [plan_get_after_control c x p hk, ← blockCount_eq_blocksOf, ← dataSegments_length c x p,
    List.getElem?_concat_length]

/-- In low-bitrate mode the pilot tone and its gap follow the lead silence. -/
theorem plan_get_pilot (hlbr : x.lbr = true) : (plan c x p)[1]? = some .pilotTone ∧
    (plan c x p)[2]? = some (.silence (ns x.sampleRate c.pilotGapMs)) := by
  rw [plan, pilotSegments, if_pos hlbr]
  exact ⟨rfl, rfl⟩

/-- Settles O34: the parts of the plan have fixed lengths, so each segment stands where the part it belongs to begins,
and its own place in that part further on. -/
theorem planHasTheFixedSegmentOrder : Obligations.PlanHasTheFixedSegmentOrder := by
  intro c x p k hk
  have control := plan_get_after_pilot c x p hk
  refine ⟨plan_length c x p, rfl, plan_get_pilot c x p, control 0, control 1, control 2, control 3, fun b hb => ?_,
    plan_get_trail c x p hk⟩
  have hgap : k + 5 + 2 * b = k + 4 + (2 * b + 1) := by omega
  rw [hgap]
  exact ⟨plan_get_block c x p hk hb (i := 0) (by decide), plan_get_block c x p hk hb (i := 1) (by decide)⟩

/-! ## The pilot tone (43_sequencer R177, R188) -/

theorem pilotSegments_count_pilotTone : (pilotSegments c x).count .pilotTone = if x.lbr then 1 else 0 := by
  unfold pilotSegments
  split <;> rfl

theorem pilotTone_notMem_dataSegments : Segment.pilotTone ∉ dataSegments c x p := by
  simp [dataSegments, blockSegments]

/-- Settles O35: the pilot segments hold the one pilot tone, if any; every other part is frames and silences. -/
theorem pilotToneOnlyInLowBitrateMode : Obligations.PilotToneOnlyInLowBitrateMode := by
  intro c x p
  have hcontrol : (controlSegments c x p).count .pilotTone = 0 := rfl
  have hsilence (n : Nat) : [Segment.silence n].count .pilotTone = 0 := rfl
  have hdata := List.count_eq_zero.2 (pilotTone_notMem_dataSegments c x p)
  simp only [plan, List.count_append, hsilence, hcontrol, hdata, pilotSegments_count_pilotTone, Nat.zero_add,
    Nat.add_zero]

end Sys2Proof.Machine
end

section
/-! SUPPORT. The family on the sequencer's samples: what segments realise to, the conversion, the number of samples, and
what ENCODE and ENCCONT make of them. -/

namespace Sys2Proof.Machine

variable (c : Params) (x : Session)

/-! ## The realisation (43_sequencer R176 to R179) -/

theorem realise_singleton (g : Segment) : realise c x [g] = realiseSegment c x g := List.flatMap_singleton ..

/-- A pilot tone has one sample for each index below its duration (R177). -/
theorem realiseSegment_pilotTone_length :
    (realiseSegment c x .pilotTone).length = c.pilotMs * x.sampleRate.toNat / 1000 := by
  rw [realiseSegment, List.length_map, List.length_range, ns]

theorem realiseSegment_pilotTone_get {k : Nat} (hk : k < c.pilotMs * x.sampleRate.toNat / 1000) :
    (realiseSegment c x .pilotTone)[k]? = some (c.pilotSample k x.sampleRate) := by
  rw [realiseSegment, List.getElem?_map, ns, List.getElem?_range hk, Option.map_some]

/-- Settles O37: each kind of segment by its rule, a plan by concatenation, and 250 · 44100 / 1000 = 11025. -/
theorem segmentsRealiseToTheirSamples : Obligations.SegmentsRealiseToTheirSamples := by
  intro c x
  refine ⟨fun _ => rfl, realiseSegment_pilotTone_length c x, fun k hk => realiseSegment_pilotTone_get c x hk,
    fun _ => rfl, rfl, realise_singleton c x, realise_append c x, fun hrate => ?_⟩
  have hcount : ns x.sampleRate 250 = 11025 := by rw [hrate]; decide
  rw [realise_singleton, hcount, realiseSegment]

/-! ## The conversion (43_sequencer R180) -/

/-- Settles O38: the quantizer maps +0.0 to 0. -/
theorem conversionQuantizesEverySample : Obligations.ConversionQuantizesEverySample := by
  intro c n xs
  have hzero : c.quantize 0x00000000#32 = 0 := c.quantize_zero
  refine ⟨rfl, rfl, ?_⟩
  rw [convert, List.map_replicate, hzero]

/-! ## The number of samples (43_sequencer R187) -/

/-- The ceiling division in naturals is the ceiling of the rational quotient. -/
theorem ceilDiv_eq_natCeil (a : Nat) {b : Nat} (hb : 0 < b) : ceilDiv a b = ⌈(a : ℚ) / b⌉₊ := by
  refine eq_of_forall_ge_iff fun m => ?_
  calc ceilDiv a b ≤ m ↔ a ≤ b * m := ceilDiv_le_iff_le_smul hb
    _ ↔ (a : ℚ) / b ≤ m := by
      rw [div_le_iff₀ (by exact_mod_cast hb), mul_comm b m]
      exact_mod_cast Iff.rfl
    _ ↔ ⌈(a : ℚ) / b⌉₊ ≤ m := Nat.ceil_le.symm

/-- A frame of `n` bytes has ceil(8n · samplesPerBit) samples (44_external_ports R206). -/
theorem frameSamples_eq_natCeil (lbr : Bool) (R : Word) (n : Nat) :
    (c.bitrate lbr).frameSamples R n = ⌈((n * 8 : Nat) : ℚ) * samplesPerBit c lbr R⌉₊ := by
  rw [PosRat.frameSamples, ceilDiv_eq_natCeil _ (c.bitrate lbr).num_pos, samplesPerBit, div_div_eq_mul_div,
    mul_div_assoc']
  push_cast
  rw [mul_assoc]

/-- Settles O36: the conversion keeps the number of samples of the realised plan. -/
theorem outputLengthFormula : Obligations.OutputLengthFormula := by
  intro c x p
  have hcontrol : (c.bitrate x.lbr).frameSamples x.sampleRate 40 = ⌈(320 : ℚ) * samplesPerBit c x.lbr x.sampleRate⌉₊ :=
    frameSamples_eq_natCeil c x.lbr x.sampleRate 40
  have hdata : (c.bitrate x.lbr).frameSamples x.sampleRate 272 = ⌈(2176 : ℚ) * samplesPerBit c x.lbr x.sampleRate⌉₊ :=
    frameSamples_eq_natCeil c x.lbr x.sampleRate 272
  rw [encodeSamples, convert_length, realise_plan_length, Params.streamSamples, streamLength, hcontrol, hdata]
  rfl

/-! ## ENCODE (43_sequencer R170) -/

/-- Settles O39: nothing stops the command, and the conversion keeps the number of samples. -/
theorem encodeWritesTheSampleStream : Obligations.EncodeWritesTheSampleStream := by
  intro s xs hvalid hplen hxs
  have hout : encodeSamples Config.params s.session (memRead 0 s.regs.plen.toNat s)
      = convert Config.params s.session.sampleFmt xs := by rw [encodeSamples, hxs]
  rw [exec, execEncode_eq hvalid hplen, hout, outWrite, convert_length]
  rfl

/-! ## What the encodings depend on (43_sequencer R185, 10_state R27) -/

/-- The repeat count reaches no sample. -/
theorem encodeSamples_repeatCount (rep : Word) (p : List Byte) :
    encodeSamples c { x with repeatCount := rep } p = encodeSamples c x p := rfl

/-- The repeat count reaches no container byte. -/
theorem containerBytes_repeatCount (rep : Word) (p : List Byte) :
    containerBytes c { x with repeatCount := rep } p = containerBytes c x p := rfl

/-- Settles O53: both states hold the same payload, which is all the two commands read besides the session; a success of
ENCCONT in the first state says that the session's container allows its rate, in the second state too. -/
theorem encodingsDependOnlyOnSessionAndPayload : Obligations.EncodingsDependOnlyOnSessionAndPayload := by
  intro s₁ s₂ t₁ t₂ rep hvalid hsession hplen hfits hwritten hpmem
  have hpayload : memRead 0 s₂.regs.plen.toNat s₂ = memRead 0 s₁.regs.plen.toNat s₁ := by
    rw [hplen]
    exact memRead_congr hwritten fun k hk => by rw [Nat.zero_add, hpmem k hk]
  have hvalid₂ : s₂.session.valid = true := by rw [hsession, hvalid]
  have hfits₂ : s₂.regs.plen.toNat ≤ Config.params.pmemSize := by rwa [hplen]
  refine ⟨fun h₁ h₂ => ?encode, fun h₁ h₂ hok => ?enccont⟩
  case encode =>
    obtain rfl := Host.Outcome.next.inj ((execEncode_eq hvalid hfits).symm.trans h₁)
    obtain rfl := Host.Outcome.next.inj ((execEncode_eq hvalid₂ hfits₂).symm.trans h₂)
    rw [hpayload, hsession, encodeSamples_repeatCount]
    exact ⟨rfl, rfl⟩
  case enccont =>
    obtain ⟨e, rfl⟩ | ⟨-, -, hrate, rfl⟩ := execEnccont_cases h₁
    · exact absurd hok (raiseError_err_ne e s₁)
    · have hrate₂ : s₂.session.container = .compressed → s₂.session.sampleRate = compressedRate := by rwa [hsession]
      obtain rfl := Host.Outcome.next.inj ((execEnccont_eq hvalid₂ hfits₂ hrate₂).symm.trans h₂)
      rw [hpayload, hsession, containerBytes_repeatCount]
      exact ⟨rfl, rfl, rfl, rfl⟩

end Sys2Proof.Machine
end

section
/-! SUPPORT. The family on the external ports: the PCM container byte by byte, and what a successful ENCCONT wrote. -/

namespace Sys2Proof.Machine

variable {c : Params} {x : Session} {p : List Byte} {s t : State}

/-! ## The PCM container (44_external_ports R210) -/

/-- Sample `k` takes the two bytes from `2k` on. -/
theorem flatMap_le16_get {q : List I16} {k i : Nat} {v : I16} (hk : q[k]? = some v) (hi : i < 2) :
    (q.flatMap le16)[2 * k + i]? = (le16 v)[i]? := by
  induction q generalizing k with
  | nil => cases hk
  | cons w q ih =>
    rw [List.flatMap_cons]
    cases k with
    | zero =>
      obtain rfl : w = v := by simpa using hk
      rw [Nat.mul_zero, Nat.zero_add, List.getElem?_append_left (by rwa [le16_length])]
    | succ k =>
      rw [List.getElem?_append_right (by rw [le16_length]; omega), le16_length,
        show 2 * (k + 1) + i - 2 = 2 * k + i by omega, ih (by simpa using hk)]

theorem pcmContainer_take_header (R : Word) (q : List I16) :
    (pcmContainer c R q).take 44 = (c.pcmHeader.bytes q.length R).toList :=
  List.take_left' (Vector.length_toList ..)

/-- The samples stand behind the 44 header bytes, least significant byte first. -/
theorem pcmContainer_get_sample {R : Word} {q : List I16} {k i : Nat} {v : I16} (hk : q[k]? = some v) (hi : i < 2) :
    (pcmContainer c R q)[44 + 2 * k + i]? = some (BitVec.ofNat 8 (v.toNat / 2 ^ (8 * i))) := by
  have hlen : (c.pcmHeader.bytes q.length R).toList.length = 44 := Vector.length_toList ..
  rw [pcmContainer, List.getElem?_append_right (by omega), hlen,
    show 44 + 2 * k + i - 44 = 2 * k + i by omega, flatMap_le16_get hk hi, le16_get v hi]

/-- The two bytes of a sample, low and high. -/
theorem pcmContainer_get_sample_bytes {R : Word} {q : List I16} {k : Nat} {v : I16} (hk : q[k]? = some v) :
    (pcmContainer c R q)[44 + 2 * k]? = some (BitVec.ofNat 8 v.toNat) ∧
    (pcmContainer c R q)[44 + 2 * k + 1]? = some (BitVec.ofNat 8 (v.toNat / 256)) := by
  refine ⟨?_, pcmContainer_get_sample hk Nat.one_lt_two⟩
  rw [← Nat.add_zero (44 + 2 * k), pcmContainer_get_sample hk Nat.two_pos, Nat.mul_zero, Nat.pow_zero, Nat.div_one]

/-- Settles O42: the declarations are the header port's own, and the samples stand behind the header. -/
theorem pcmContainerLaw : Obligations.PcmContainerLaw := fun c R q =>
  ⟨pcmContainer_length c R q,
    ⟨_, pcmContainer_take_header R q, c.pcmHeader.chunkSize_declared q.length R,
      c.pcmHeader.byteRate_declared q.length R⟩,
    fun _ _ hk => pcmContainer_get_sample_bytes hk⟩

/-! ## What a successful ENCCONT wrote (44_external_ports R212, R215) -/

/-- A PCM session's container is that of the quantized realised plan. -/
theorem containerBytes_pcm (hx : x.container = .pcm) :
    containerBytes c x p = pcmContainer c x.sampleRate ((realise c x (plan c x p)).map c.quantize) := by
  rw [containerBytes, hx, containerSamples]

/-- A COMPRESSED session's container is the port's answer to the realised plan, before any conversion. -/
theorem containerBytes_compressed (hx : x.container = .compressed) :
    containerBytes c x p = c.compressEncode (realise c x (plan c x p)) := by
  rw [containerBytes, hx, containerSamples]

/-- A successful ENCCONT went past every check, and wrote the session's container with its MIME_SEL. -/
theorem exec_enccont_success (h : exec .enccont s = .next t) (hok : t.regs.err = 0x00) :
    s.regs.plen.toNat ≤ Config.params.pmemSize ∧
    (s.session.container = .compressed → s.session.sampleRate = compressedRate) ∧
    t.cout = containerBytes Config.params s.session (memRead 0 s.regs.plen.toNat s) ∧
    t.regs.mimeSel = mimeSelOf s.session.container := by
  obtain ⟨e, rfl⟩ | ⟨-, hplen, hrate, rfl⟩ := execEnccont_cases h
  · exact absurd hok (raiseError_err_ne e s)
  · exact ⟨hplen, hrate, rfl, rfl⟩

/-- Settles O43: the success wrote the session's container, which is one of the two. -/
theorem enccontNeverSubstitutesAContainer : Obligations.EnccontNeverSubstitutesAContainer := by
  intro s t xs hxs h hok
  obtain ⟨-, hrate, hcout, hmime⟩ := exec_enccont_success h hok
  rw [hcout, hmime, hxs]
  cases hk : s.session.container with
  | pcm => exact .inl ⟨rfl, rfl, containerBytes_pcm hk⟩
  | compressed => exact .inr ⟨rfl, rfl, congrArg BitVec.toNat (hrate hk), containerBytes_compressed hk⟩

/-! ## What its header declares (44_external_ports R214) -/

/-- The header of the stream of a payload that fits PMEM declares its chunk size: the realised plan has as many samples
as `Params.pcmHeader_stream` is about. -/
theorem realise_plan_chunkSize_declared (x : Session) (hp : p.length ≤ c.pmemSize) :
    c.pcmHeader.chunkSize (c.pcmHeader.bytes (realise c x (plan c x p)).length x.sampleRate)
      = 36 + 2 * (realise c x (plan c x p)).length := by
  rw [realise_plan_length]
  exact c.pcmHeader_stream x.lbr x.sampleRate p.length hp

/-- Settles O58: a successful ENCCONT read a payload that fits PMEM, so its header declares the chunk size whatever the
number of samples; the rest is the PCM container's own. -/
theorem successfulEnccontDeclaresItsStream : Obligations.SuccessfulEnccontDeclaresItsStream := by
  intro s t xs hk hxs h hok
  obtain ⟨hplen, -, hcout, -⟩ := exec_enccont_success h hok
  have hchunk := realise_plan_chunkSize_declared s.session ((memRead_length 0 _ s).trans_le hplen)
  rw [← hxs] at hchunk
  rw [hcout, containerBytes_pcm hk, ← hxs, pcmContainer_length, pcmContainer_take_header, List.length_map]
  refine ⟨rfl, ⟨_, rfl, hchunk, Config.params.pcmHeader.byteRate_declared ..⟩, fun k x hx => ?_⟩
  exact pcmContainer_get_sample_bytes (by rw [List.getElem?_map, hx, Option.map_some])

/-! ## ENCCONT completes (44_external_ports R212) -/

/-- Settles O40: nothing stops the command, and a PCM container counts two bytes a sample behind its header. -/
theorem enccontWritesThePcmContainer : Obligations.EnccontWritesThePcmContainer := by
  intro s xs hvalid hplen hk hxs
  have hrate : s.session.container = .compressed → s.session.sampleRate = compressedRate := by simp [hk]
  rw [exec, execEnccont_eq hvalid hplen hrate, containerBytes_pcm hk, ← hxs, hk, containerWrite, pcmContainer_length,
    List.length_map]
  rfl

/-- Settles O41: at 44100 Hz nothing stops the command. -/
theorem enccontWritesTheCompressedContainer : Obligations.EnccontWritesTheCompressedContainer := by
  intro s xs hvalid hplen hk hrate hxs
  rw [exec, execEnccont_eq hvalid hplen fun _ => BitVec.eq_of_toNat_eq hrate, containerBytes_compressed hk, ← hxs, hk]
  rfl

end Sys2Proof.Machine
end

section
/-! SUPPORT. The family on errors: the error a command and a CMD write end with, what an error changes, and the steps
that write no error. -/

namespace Sys2Proof.Machine

variable {s t : State} {w : Word}

/-! ## The error a command ends with (60_exceptions R234) -/

/-! At a command's own word `firstError` evaluates to the command's chain of checks, so each branch of the command is
one branch of that chain: the checks before it fail, and its own applies. -/

theorem execMkctl_err (h : execMkctl s = .next t) : t.regs.err = firstError 0x00000002 s := by
  unfold execMkctl at h
  split_ifs at h with hv hp <;> cases h
  · exact (if_pos hv).symm
  · exact ((if_neg hv).trans (if_pos hp)).symm
  · exact ((if_neg hv).trans (if_neg hp)).symm

/-- A block too long and a block index too large are one error. -/
theorem execMkdata_err (h : execMkdata s = .next t) : t.regs.err = firstError 0x00000003 s := by
  unfold execMkdata at h
  split_ifs at h with hv hlen hidx hp <;> cases h
  · exact (if_pos hv).symm
  · exact ((if_neg hv).trans (if_pos (.inl hlen))).symm
  · exact ((if_neg hv).trans (if_pos (.inr hidx))).symm
  · exact ((if_neg hv).trans ((if_neg (not_or.2 ⟨hlen, hidx⟩)).trans (if_pos hp))).symm
  · exact ((if_neg hv).trans ((if_neg (not_or.2 ⟨hlen, hidx⟩)).trans (if_neg hp))).symm

theorem execEncode_err (h : execEncode s = .next t) : t.regs.err = firstError 0x00000004 s := by
  simp only [execEncode, gt_iff_lt, maxBlocks_lt_blockCount] at h
  split_ifs at h with hv hblocks hp <;> cases h
  · exact (if_pos hv).symm
  · exact ((if_neg hv).trans (if_pos hblocks)).symm
  · exact ((if_neg hv).trans ((if_neg hblocks).trans (if_pos hp))).symm
  · exact ((if_neg hv).trans ((if_neg hblocks).trans (if_neg hp))).symm

/-- The container check asks for the compressed profile's rate as a word, R234 as a number. -/
theorem execEnccont_err (h : execEnccont s = .next t) : t.regs.err = firstError 0x00000005 s := by
  simp only [execEnccont, gt_iff_lt, maxBlocks_lt_blockCount, ne_eq, BitVec.toNat_eq] at h
  split_ifs at h with hv hblocks hp hrate <;> cases h
  · exact (if_pos hv).symm
  · exact ((if_neg hv).trans (if_pos hblocks)).symm
  · exact ((if_neg hv).trans ((if_neg hblocks).trans (if_pos hp))).symm
  · exact ((if_neg hv).trans ((if_neg hblocks).trans ((if_neg hp).trans (if_pos ⟨rfl, hrate⟩)))).symm
  · exact ((if_neg hv).trans ((if_neg hblocks).trans ((if_neg hp).trans (if_neg fun hc => hrate hc.2)))).symm

/-- Every command ends with the first error in the order, or with 0x00 where none applies. -/
theorem exec_err {i : Instr} (h : exec i s = .next t) : t.regs.err = firstError (encode i) s := by
  cases i with
  | configure => exact execConfigure_err h
  | mkctl => exact execMkctl_err h
  | mkdata => exact execMkdata_err h
  | encode => exact execEncode_err h
  | enccont => exact execEnccont_err h

/-! ## What an error changes (60_exceptions R232, 40_configure R107) -/

/-- Settles O45: each command raises its error on the state it found, CONFIGURE on the invalidated one, and a command
that completes ends with 0x00. -/
theorem failedCommandWritesOnlyErr : Obligations.FailedCommandWritesOnlyErr := by
  intro i s t h herr
  cases i with
  | configure =>
    obtain ⟨e, rfl⟩ | ⟨x, -, -, -, rfl⟩ := execConfigure_cases h
    exacts [rfl, absurd rfl herr]
  | mkctl =>
    obtain ⟨e, rfl⟩ | ⟨-, -, rfl⟩ := execMkctl_cases h
    exacts [rfl, absurd rfl herr]
  | mkdata =>
    obtain ⟨e, rfl⟩ | ⟨-, -, -, -, rfl⟩ := execMkdata_cases h
    exacts [rfl, absurd rfl herr]
  | encode =>
    obtain ⟨e, rfl⟩ | ⟨-, -, rfl⟩ := execEncode_cases h
    exacts [rfl, absurd rfl herr]
  | enccont =>
    obtain ⟨e, rfl⟩ | ⟨-, -, -, rfl⟩ := execEnccont_cases h
    exacts [rfl, absurd rfl herr]

/-- A command to which an error applies ends in the state it found, with that error. -/
theorem exec_of_firstError {i : Instr} (h : firstError (encode i) s ≠ 0x00) :
    exec i s = .next { s with
      regs.err := firstError (encode i) s
      session.valid := if i = .configure then false else s.session.valid } := by
  obtain ⟨t, ht⟩ := exec_next i s
  have herr := exec_err ht
  rw [ht, failedCommandWritesOnlyErr i s t ht (herr ▸ h), herr]

/-- Settles O46: raising NOT_CONFIGURED is all such a command does. -/
theorem notConfiguredWithoutASession : Obligations.NotConfiguredWithoutASession :=
  fun _ _ hi hv => exec_of_not_valid hi hv

/-! ## The words of the commands and the illegal words (30_encoding R83, R84) -/

theorem exists_encode_of_toNat_range (h : 1 ≤ w.toNat ∧ w.toNat ≤ 5) : ∃ i, w = encode i := by
  obtain h | h | h | h | h : w.toNat = 1 ∨ w.toNat = 2 ∨ w.toNat = 3 ∨ w.toNat = 4 ∨ w.toNat = 5 := by omega
  · exact ⟨.configure, BitVec.eq_of_toNat_eq h⟩
  · exact ⟨.mkctl, BitVec.eq_of_toNat_eq h⟩
  · exact ⟨.mkdata, BitVec.eq_of_toNat_eq h⟩
  · exact ⟨.encode, BitVec.eq_of_toNat_eq h⟩
  · exact ⟨.enccont, BitVec.eq_of_toNat_eq h⟩

theorem encode_toNat_eq_one_iff (i : Instr) : (encode i).toNat = 1 ↔ i = .configure := by cases i <;> decide

/-- A word that is no command's raises the illegal-command error, for its reserved bits or for its opcode. -/
theorem runCommand_of_illegal (h : ¬(1 ≤ w.toNat ∧ w.toNat ≤ 5)) (s : State) :
    runCommand w s = .next (illegalCommand s) := by
  obtain ⟨hbits, hop⟩ := illegalWordsAreRejectedByName w
  by_cases hrsv : w.toNat / 256 = 0
  · rw [runCommand, hop hrsv (by omega)]
  · rw [runCommand, hbits hrsv]

/-- Settles O6: none of the three word classes is a command's. -/
theorem illegalCommandChangesOnlyErr : Obligations.IllegalCommandChangesOnlyErr := by
  intro s w rest hq hw
  rw [step_cmdWrite hq, runCommand_of_illegal (by omega)]
  rfl

/-- Settles O44: an illegal word always has an error, and every other word is a command's. -/
theorem commandsReportTheFirstError : Obligations.CommandsReportTheFirstError := by
  intro s w rest hq
  rw [step_cmdWrite hq]
  by_cases hw : 1 ≤ w.toNat ∧ w.toNat ≤ 5
  · obtain ⟨i, rfl⟩ := exists_encode_of_toNat_range hw
    rw [runCommand_of_decodeWord (decodeWord_encode i)]
    simp only [encode_toNat_eq_one_iff]
    refine ⟨fun herr => exec_of_firstError (s := { s with hostQueue := rest }) herr, fun hok => ?_⟩
    obtain ⟨t, ht⟩ := exec_next i { s with hostQueue := rest }
    exact ⟨t, ht, (exec_err ht).trans hok⟩
  · have herr : firstError w s = 0x06 := if_pos hw
    rw [runCommand_of_illegal hw, herr, if_neg (show w.toNat ≠ 1 by omega)]
    exact ⟨fun _ => rfl, fun hok => absurd hok (by decide)⟩

/-! ## The steps that write no error (60_exceptions R233, R247) -/

theorem hostRead_err (a : Nat) (w : Width) (s : State) : (hostRead a w s).regs.err = s.regs.err := by
  obtain ⟨v, d, h⟩ := hostRead_eq a w s
  rw [h]

theorem hostWrite_err (a : Nat) (w : Width) (v : Word) (s : State) : (hostWrite a w v s).regs.err = s.regs.err := by
  obtain ⟨-, g, h, herr, -⟩ | ⟨-, h⟩ := hostWrite_cases a w v s
  · rw [h, herr]
  · obtain ⟨m, hm⟩ := writeHostBytes_eq a (writtenBytes w v) s
    rw [h, hm]

/-- Settles O52: of the four things a step can do, only the CMD write touches STATUS.ERR. -/
theorem errChangesOnlyByCmdWrites : Obligations.ErrChangesOnlyByCmdWrites := by
  intro s t h hne
  obtain ⟨-, rfl⟩ | ⟨addr, w, rest, -, -, rfl⟩ | ⟨v, rest, hq, -⟩ | ⟨addr, w, v, rest, -, -, -, rfl⟩ := step_cases h
  · exact absurd rfl hne
  · exact absurd (hostRead_err _ _ _) hne
  · exact ⟨v, rest, hq⟩
  · exact absurd (hostWrite_err _ _ _ _) hne

/-- Settles O7: a step does what its next access does, and there is none. -/
theorem idleStepHoldsAllState : Obligations.IdleStepHoldsAllState := by
  intro s hq
  rw [step, nextAccess, hq]

end Sys2Proof.Machine
end

section
/-! SUPPORT. The family on reset: what every register reads, what a CONFIGURE does before the host has set a sample rate,
and that the state after reset is one the block can be in. -/

namespace Sys2Proof.Machine

variable {s : State}

/-! ## The registers after reset (70_reset R260) -/

/-- Settles O10: a register other than CFG_REPEAT reads zero fields, and STATUS a session that is not valid. -/
theorem resetRegisterValues : Obligations.ResetRegisterValues := by
  intro r
  cases r with
  | cfgRepeat => rfl
  | _ => rfl

/-! ## The session and the memories after reset (70_reset R261, R262) -/

/-- No sample rate of 0 is legal, and the rate is asked first (40_configure R101, R102). -/
theorem firstError_configure_of_rate_zero (h : s.regs.cfgSampleRate = 0) : firstError 0x00000001 s = 0x04 := by
  rw [firstError_configure, h, if_pos Config.params.sampleRateOk_zero]

/-- A CONFIGURE at rate 0 leaves no session and reports the rate, whatever the other registers hold. -/
theorem execConfigure_of_rate_zero (h : s.regs.cfgSampleRate = 0) :
    execConfigure s = .next { s with session.valid := false, regs.err := 0x04 } := by
  have herr := firstError_configure_of_rate_zero h
  rw [execConfigure_failure (by rw [herr]; decide), herr]

/-- Settles O11: CFG_SAMPLE_RATE is 0 after reset, and there is no session for the failed CONFIGURE to take away. -/
theorem resetSessionAndMemories : Obligations.ResetSessionAndMemories :=
  ⟨rfl, fun _ => ⟨Memory.get_nil, Memory.get_nil⟩, rfl, rfl, execConfigure_of_rate_zero rfl⟩

/-! ## The invariant after reset -/

theorem count64_zero : count64 0 = 0 := if_pos (by decide)

theorem memoryCanonical_of_nil (hp : s.pmem = []) (hf : s.fmem = []) : MemoryCanonical s where
  pmem_wf := by rw [hp]; exact .nil
  pmem_below := by rw [hp]; exact List.forall_mem_nil _
  fmem_wf := by rw [hf]; exact .nil
  fmem_below := by rw [hf]; exact List.forall_mem_nil _

/-- Before the first ENCCONT there is no container to match (10_state R40). -/
theorem containerMatchesMime_of_nil (hm : s.regs.mimeSel = 0) (hc : s.cout = []) : ContainerMatchesMime s where
  none _ := hc
  pcm h := absurd (hm.symm.trans h) (by decide)
  compressed h := absurd (hm.symm.trans h) (by decide)

/-- Settles O12: nothing is written, counted or configured yet, so each part of the invariant holds of nothing. -/
theorem resetMeetsTheInvariant : Obligations.ResetMeetsTheInvariant where
  memory := memoryCanonical_of_nil rfl rfl
  status := ⟨by decide, by decide⟩
  buffer := .inl rfl
  outputs := ⟨count64_zero.symm, count64_zero.symm⟩
  session h := absurd h (by decide)
  samples _ h := absurd h List.not_mem_nil
  container := containerMatchesMime_of_nil rfl rfl

end Sys2Proof.Machine
end
